-- ==== Sys2Proof/Word.lean ====
section
/-! DEFINITION. The widths of the hardware: 64-bit register values and addresses, 32-bit instruction words, bytes
(spec/00_scope.md R9, R10; 20_memory.md R59; 30_encoding.md R82). -/

namespace Sys2Proof

/-- A 64-bit value: a general-purpose register, a System register, an address, the program counter. -/
abbrev Word := BitVec 64

/-- One instruction word (30_encoding.md R82). -/
abbrev InstrWord := BitVec 32

/-- One byte of memory or of program text (20_memory.md R59). -/
abbrev Byte := BitVec 8

end Sys2Proof
end

