-- ==== Sys2Proof/Config.lean ====
section
/-! DEFINITION. What an implementation fixes for the life of the machine (spec/00_scope.md R6, R7; 92_eei_decisions.md,
"Open parameters, collected"). Every parameter is a field, none has a value here: State carries a `Config`, so a statement
about every state holds for every implementation (log 1). -/

namespace Sys2Proof

/-- The four Exception levels, the values of PSTATE.EL (10_state.md R49). -/
inductive EL where
  | el0
  | el1
  | el2
  | el3
deriving DecidableEq, Repr

/-- A range of byte addresses that an NVMem access may touch (20_memory.md R65, R67). -/
structure AddrRange where
  base : Nat
  size : Nat
deriving DecidableEq, Repr

/-- The parameters of R6 and of 92_eei_decisions.md. -/
structure Config where
  /-- FEAT_TCR2: with it false the register does not exist (R2). -/
  featTCR2 : Bool
  /-- FEAT_AA64: with it false the register does not exist (R2). -/
  featAA64 : Bool
  /-- FEAT_THE: FNGNA1, FNGNA0, PTTWI, PnCH. -/
  featTHE : Bool
  /-- FEAT_ASID2: FNG1, FNG0, A2. -/
  featASID2 : Bool
  /-- FEAT_D128: D128, DisCH1, DisCH0. -/
  featD128 : Bool
  /-- FEAT_HAFT: HAFT. -/
  featHAFT : Bool
  /-- FEAT_AIE: AIE. -/
  featAIE : Bool
  /-- FEAT_S1POE: POE, E0POE. -/
  featS1POE : Bool
  /-- FEAT_S1PIE: PIE. -/
  featS1PIE : Bool
  /-- FEAT_SRMASK: masking of writes, and the accessor name TCR2ALIAS_EL1. -/
  featSRMASK : Bool
  /-- FEAT_VHE: the accessor name TCR2_EL12. -/
  featVHE : Bool
  /-- FEAT_FGT: the fine-grained trap of the name TCR2_EL1. -/
  featFGT : Bool
  /-- FEAT_FGT2: the fine-grained trap of the name TCR2ALIAS_EL1. -/
  featFGT2 : Bool
  /-- HaveEL(EL2). -/
  haveEL2 : Bool
  /-- HaveEL(EL3). -/
  haveEL3 : Bool
  /-- PTTWI_RO0: PTTWI is a read-only bit with a fixed value of 0 (R32, D28). -/
  pttwiRO0 : Bool
  /-- Res0StorageMask: the reserved bits that are inert storage (R39, D4). -/
  res0StorageMask : Word
  /-- AliasWriteMasked: whether MSR TCR2ALIAS_EL1 honours TCR2MASK_EL1 (R45, D9). -/
  aliasWriteMasked : Bool
  /-- NVMemBigEndian: byte order of the NVMem access (20_memory.md R62, D14). -/
  nvMemBigEndian : Bool
  /-- ResetEL: PSTATE.EL after Warm reset (70 R163, D25). -/
  resetEL : EL
  /-- ResetPC: pc after Warm reset (70 R163, D25). -/
  resetPC : Word
  /-- The admitted address set of the NVMem access, as ranges (20_memory.md R65, D13). -/
  admitted : List AddrRange
deriving DecidableEq, Repr

/-- HighestEL, computed as R7 says. -/
def Config.highestEL (c : Config) : EL :=
  if c.haveEL3 then .el3 else if c.haveEL2 then .el2 else .el1

/-- The register exists exactly when both features are implemented (R2). -/
def Config.registerPresent (c : Config) : Bool :=
  c.featTCR2 && c.featAA64

/-- Whether an Exception level is implemented. EL0 and EL1 always are; the page makes only EL2 and EL3 conditional
(R6, R7). -/
def Config.implementsEL (c : Config) : EL → Bool
  | .el0 => true
  | .el1 => true
  | .el2 => c.haveEL2
  | .el3 => c.haveEL3

/-- DESIGN CHOICE (log 1, log 4; unsafe for statements about `State.reset` only): the implementation `State.reset`
describes. It is the parameter set the spec's own vectors call ALL (95_test_vectors.md): every feature and level
implemented, reserved bits hardwired. The whole address space is admitted. -/
def Config.reference : Config where
  featTCR2 := true
  featAA64 := true
  featTHE := true
  featASID2 := true
  featD128 := true
  featHAFT := true
  featAIE := true
  featS1POE := true
  featS1PIE := true
  featSRMASK := true
  featVHE := true
  featFGT := true
  featFGT2 := true
  haveEL2 := true
  haveEL3 := true
  pttwiRO0 := false
  res0StorageMask := 0
  aliasWriteMasked := true
  nvMemBigEndian := false
  resetEL := .el3
  resetPC := 0x80000
  admitted := [{ base := 0, size := 2 ^ 64 }]

end Sys2Proof
end

