-- ==== Sys2Proof/Syntax.lean ====
section
/-! DEFINITION. The six instructions of spec/opcode_table.json, the accessor name and the direction of each
(30_encoding.md R80, R81, R89). -/

namespace Sys2Proof

/-- The three accessor names of TCR2_EL1 (30_encoding.md R81). -/
inductive Accessor where
  | tcr2El1
  | tcr2El12
  | tcr2AliasEl1
deriving DecidableEq, Repr

/-- MRS reads, MSR writes (30_encoding.md R80). -/
inductive Direction where
  | read
  | write
deriving DecidableEq, Repr

/-- The instructions. `t` is the number of the general-purpose register `<Xt>`, with 31 the zero register
(30_encoding.md R83). -/
inductive Instr where
  /-- `MRS <Xt>, TCR2_EL1` (R101). -/
  | mrsTcr2El1 (t : Nat)
  /-- `MSR TCR2_EL1, <Xt>` (R102). -/
  | msrTcr2El1 (t : Nat)
  /-- `MRS <Xt>, TCR2_EL12` (R111). -/
  | mrsTcr2El12 (t : Nat)
  /-- `MSR TCR2_EL12, <Xt>` (R112). -/
  | msrTcr2El12 (t : Nat)
  /-- `MRS <Xt>, TCR2ALIAS_EL1` (R121). -/
  | mrsTcr2AliasEl1 (t : Nat)
  /-- `MSR TCR2ALIAS_EL1, <Xt>` (R122). -/
  | msrTcr2AliasEl1 (t : Nat)
deriving DecidableEq, Repr

/-- The accessor name an instruction uses. -/
def Instr.accessor : Instr → Accessor
  | .mrsTcr2El1 _ => .tcr2El1
  | .msrTcr2El1 _ => .tcr2El1
  | .mrsTcr2El12 _ => .tcr2El12
  | .msrTcr2El12 _ => .tcr2El12
  | .mrsTcr2AliasEl1 _ => .tcr2AliasEl1
  | .msrTcr2AliasEl1 _ => .tcr2AliasEl1

/-- The direction of an instruction. -/
def Instr.direction : Instr → Direction
  | .mrsTcr2El1 _ => .read
  | .msrTcr2El1 _ => .write
  | .mrsTcr2El12 _ => .read
  | .msrTcr2El12 _ => .write
  | .mrsTcr2AliasEl1 _ => .read
  | .msrTcr2AliasEl1 _ => .write

/-- The register number of an instruction's one operand. -/
def Instr.reg : Instr → Nat
  | .mrsTcr2El1 t => t
  | .msrTcr2El1 t => t
  | .mrsTcr2El12 t => t
  | .msrTcr2El12 t => t
  | .mrsTcr2AliasEl1 t => t
  | .msrTcr2AliasEl1 t => t

end Sys2Proof
end

