-- ==== Sys2Proof/WellFormed.lean ====
section
/-! DEFINITION. Which instruction terms and which parameter sets the spec allows. -/

namespace Sys2Proof

/-- An instruction is well formed when its register number is a value of the 5-bit field Rt: "Within the six rows every
value of Rt (0 to 31) is legal" (30_encoding.md R83, R87). -/
def Instr.wf (i : Instr) : Bool :=
  decide (i.reg ≤ 31)

/-- ResetEL is an implemented level (92_eei_decisions.md D25). -/
def Config.resetELImplemented (c : Config) : Bool :=
  c.implementsEL c.resetEL

/-- ResetPC is a multiple of 4 (92_eei_decisions.md D25). -/
def Config.resetPCAligned (c : Config) : Bool :=
  c.resetPC.extractLsb' 0 2 == 0#2

/-- Every admitted range lies in the 64-bit address space (20_memory.md R59, R67). -/
def Config.admittedInSpace (c : Config) : Bool :=
  c.admitted.all fun r => decide (r.base + r.size ≤ 2 ^ 64)

/-- A parameter set the spec allows. -/
def Config.wf (c : Config) : Bool :=
  c.resetELImplemented && c.resetPCAligned && c.admittedInSpace

end Sys2Proof
end

