-- ==== Sys2Proof/Decode.lean ====
section
/-! DEFINITION. The decoder of 30_encoding.md R90, by the mask and match values of R84, total on any bytes and rejecting by
name; then the encoder, which assembles the word from the field layout of R82 and the five-field encodings of R81; then the
syndrome fields of 60_exceptions.md R133, which are read from the same encodings. -/

namespace Sys2Proof

/-- Why a list of bytes is no instruction. -/
inductive DecodeError where
  /-- Fewer than four bytes: no whole instruction word (30_encoding.md R82). -/
  | truncated
  /-- The word matches none of the six rows: "not in this spec" (30_encoding.md R87). -/
  | notInThisSpec (w : InstrWord)
deriving DecidableEq, Repr

/-- The mask of all six rows: every bit but Rt is fixed (30_encoding.md R84). -/
def rtMask : InstrWord := 0xFFFFFFE0

/-- The match value of an accessor name and a direction, as R84 lists them. -/
def matchWord : Accessor → Direction → InstrWord
  | .tcr2El1, .read => 0xD5382060
  | .tcr2El1, .write => 0xD5182060
  | .tcr2El12, .read => 0xD53D2060
  | .tcr2El12, .write => 0xD51D2060
  | .tcr2AliasEl1, .read => 0xD53827E0
  | .tcr2AliasEl1, .write => 0xD51827E0

/-- The instruction of an accessor name, a direction and a register number. -/
def makeInstr : Accessor → Direction → Nat → Instr
  | .tcr2El1, .read, t => .mrsTcr2El1 t
  | .tcr2El1, .write, t => .msrTcr2El1 t
  | .tcr2El12, .read, t => .mrsTcr2El12 t
  | .tcr2El12, .write, t => .msrTcr2El12 t
  | .tcr2AliasEl1, .read, t => .mrsTcr2AliasEl1 t
  | .tcr2AliasEl1, .write, t => .msrTcr2AliasEl1 t

/-- The six rows of R84, in its order. -/
def opcodeRows : List (Accessor × Direction) :=
  [(.tcr2El1, .read), (.tcr2El1, .write), (.tcr2El12, .read), (.tcr2El12, .write),
   (.tcr2AliasEl1, .read), (.tcr2AliasEl1, .write)]

/-- Rt, word[4:0], as a number (30_encoding.md R83). -/
def rtOf (w : InstrWord) : Nat :=
  (w.extractLsb' 0 5).toNat

/-- The decoder of R90 on one word. -/
def decodeWord (w : InstrWord) : Except DecodeError Instr :=
  match opcodeRows.find? fun r => w &&& rtMask == matchWord r.1 r.2 with
  | some r => .ok (makeInstr r.1 r.2 (rtOf w))
  | none => .error (.notInThisSpec w)

/-- An instruction word is fetched "as a little-endian word whatever the data byte order" (30_encoding.md R82). -/
def wordOfBytes (b0 b1 b2 b3 : Byte) : InstrWord :=
  b3 ++ b2 ++ b1 ++ b0

/-- The decoder on bytes: one word, and the bytes left over. -/
def decodeBytes : List Byte → Except DecodeError (Instr × List Byte)
  | b0 :: b1 :: b2 :: b3 :: rest =>
    match decodeWord (wordOfBytes b0 b1 b2 b3) with
    | .ok i => .ok (i, rest)
    | .error e => .error e
  | _ => .error .truncated

/-- Byte `k` of a word as it lies in memory, the least significant first (30_encoding.md R82). -/
def wordByte (w : InstrWord) (k : Nat) : Byte :=
  w.extractLsb' (8 * k) 8

/-- The four bytes of a word in memory order. -/
def bytesOfWord (w : InstrWord) : List Byte :=
  [wordByte w 0, wordByte w 1, wordByte w 2, wordByte w 3]

/-- The instruction read from a row of spec/opcode_table.json whose bits are `w`, of which the table gives `nbits`; the bits
above are 0. -/
def decodeTableWord (nbits w : Nat) : Option Instr :=
  match decodeBytes (bytesOfWord (BitVec.ofNat 32 (w % 2 ^ nbits))) with
  | .ok (i, _) => some i
  | .error _ => none

/-- The five encoding fields of an accessor (30_encoding.md R80). -/
structure SysRegEncoding where
  op0 : BitVec 2
  op1 : BitVec 3
  crn : BitVec 4
  crm : BitVec 4
  op2 : BitVec 3
deriving DecidableEq, Repr

/-- The three points of the System-register space (30_encoding.md R81). -/
def sysRegEncoding : Accessor → SysRegEncoding
  | .tcr2El1 => { op0 := 0b11, op1 := 0b000, crn := 0b0010, crm := 0b0000, op2 := 0b011 }
  | .tcr2El12 => { op0 := 0b11, op1 := 0b101, crn := 0b0010, crm := 0b0000, op2 := 0b011 }
  | .tcr2AliasEl1 => { op0 := 0b11, op1 := 0b000, crn := 0b0010, crm := 0b0111, op2 := 0b111 }

/-- The bit L of the word, and the Direction bit of the syndrome: 1 for MRS, 0 for MSR (30_encoding.md R82,
60_exceptions.md R133). -/
def directionBit : Direction → BitVec 1
  | .read => 1
  | .write => 0

/-- The System-register move word, field by field as R82 lays it out (PRESUMED, log 13: the layout is G3's). -/
def encode (i : Instr) : InstrWord :=
  let e := sysRegEncoding i.accessor
  0b1101010100#10 ++ directionBit i.direction ++ 1#1 ++ e.op0.extractLsb' 0 1 ++ e.op1 ++ e.crn ++ e.crm ++ e.op2 ++
    BitVec.ofNat 5 i.reg

/-- The encoded instruction in memory order. -/
def encodeBytes (i : Instr) : List Byte :=
  bytesOfWord (encode i)

/-- The 25-bit ISS a trap of this instruction would record: [21:20] Op0, [19:17] Op2, [16:14] Op1, [13:10] CRn, [9:5] Rt,
[4:1] CRm, [0] Direction (60_exceptions.md R133; PRESUMED, log 11: general knowledge G5). -/
def trapISS (i : Instr) : BitVec 25 :=
  let e := sysRegEncoding i.accessor
  0#3 ++ e.op0 ++ e.op2 ++ e.op1 ++ e.crn ++ BitVec.ofNat 5 i.reg ++ e.crm ++ directionBit i.direction

end Sys2Proof
end

