-- ==== Sys2Proof/Machine/Fields.lean ====
section
/-! DEFINITION. The fields of TCR2_EL1 and the masks built from them: the bit map (10_state.md R21), which field exists
(R24 to R38), its reset class (70 R161), whether a TLB may cache it (R46), NamedMask, FixedZeroMask, StorageMask and the
write merge (R45), and the value after Warm reset (70 R162). -/

namespace Sys2Proof.Machine

/-- The 15 named fields, each one bit wide (10_state.md R21). -/
inductive Field where
  | fngna1
  | fngna0
  | fng1
  | fng0
  | a2
  | disCH1
  | disCH0
  | haft
  | pttwi
  | d128
  | aie
  | poe
  | e0poe
  | pie
  | pnch
deriving DecidableEq, Repr

/-- The fields from bit 21 down, the page's order. -/
def Field.all : List Field :=
  [.fngna1, .fngna0, .fng1, .fng0, .a2, .disCH1, .disCH0, .haft, .pttwi, .d128, .aie, .poe, .e0poe, .pie, .pnch]

/-- Bit position (10_state.md R21). -/
def Field.pos : Field → Nat
  | .fngna1 => 21
  | .fngna0 => 20
  | .fng1 => 18
  | .fng0 => 17
  | .a2 => 16
  | .disCH1 => 15
  | .disCH0 => 14
  | .haft => 11
  | .pttwi => 10
  | .d128 => 5
  | .aie => 4
  | .poe => 3
  | .e0poe => 2
  | .pie => 1
  | .pnch => 0

/-- The feature a field needs (10_state.md R21, R24 to R38). -/
def Field.feature (c : Config) : Field → Bool
  | .fngna1 => c.featTHE
  | .fngna0 => c.featTHE
  | .fng1 => c.featASID2
  | .fng0 => c.featASID2
  | .a2 => c.featASID2
  | .disCH1 => c.featD128
  | .disCH0 => c.featD128
  | .haft => c.featHAFT
  | .pttwi => c.featTHE
  | .d128 => c.featD128
  | .aie => c.featAIE
  | .poe => c.featS1POE
  | .e0poe => c.featS1POE
  | .pie => c.featS1PIE
  | .pnch => c.featTHE

/-- Whether the field exists while the register holds `w`: DisCH1 and DisCH0 "exist only when" the stored D128 is 1
(10_state.md R21, R29, R30, R44). -/
def Field.existsIn (c : Config) (w : Word) (f : Field) : Bool :=
  f.feature c &&
    match f with
    | .disCH1 => w.getLsbD Field.d128.pos
    | .disCH0 => w.getLsbD Field.d128.pos
    | .fngna1 | .fngna0 | .fng1 | .fng0 | .a2 | .haft | .pttwi | .d128 | .aie | .poe | .e0poe | .pie | .pnch => true

/-- The two reset classes (70_reset_and_hazards.md R161). -/
inductive ResetClass where
  /-- Class U: "AU" after every Warm reset. -/
  | u
  /-- Class Z: 0 when the highest implemented Exception level is EL1, "AU" otherwise. -/
  | z
deriving DecidableEq, Repr

/-- The reset class of a field (70_reset_and_hazards.md R161). -/
def Field.resetClass : Field → ResetClass
  | .fngna1 => .u
  | .fngna0 => .u
  | .fng1 => .u
  | .fng0 => .u
  | .a2 => .u
  | .disCH1 => .u
  | .disCH0 => .u
  | .haft => .z
  | .pttwi => .z
  | .d128 => .z
  | .aie => .z
  | .poe => .z
  | .e0poe => .z
  | .pie => .z
  | .pnch => .z

/-- "permitted to be cached in a TLB": all but POE and E0POE (10_state.md R23, R35, R36, R46). -/
def Field.tlbCacheable : Field → Bool
  | .fngna1 => true
  | .fngna0 => true
  | .fng1 => true
  | .fng0 => true
  | .a2 => true
  | .disCH1 => true
  | .disCH0 => true
  | .haft => true
  | .pttwi => true
  | .d128 => true
  | .aie => true
  | .poe => false
  | .e0poe => false
  | .pie => true
  | .pnch => true

/-- One bit per named field: TCR2MASK_EL1 as the page gives it (10_state.md R52), and the effective values (R43). -/
structure FieldBits where
  fngna1 : Bool
  fngna0 : Bool
  fng1 : Bool
  fng0 : Bool
  a2 : Bool
  disCH1 : Bool
  disCH0 : Bool
  haft : Bool
  pttwi : Bool
  d128 : Bool
  aie : Bool
  poe : Bool
  e0poe : Bool
  pie : Bool
  pnch : Bool
deriving DecidableEq, Repr

/-- The bit of one field. -/
def FieldBits.get (b : FieldBits) : Field → Bool
  | .fngna1 => b.fngna1
  | .fngna0 => b.fngna0
  | .fng1 => b.fng1
  | .fng0 => b.fng0
  | .a2 => b.a2
  | .disCH1 => b.disCH1
  | .disCH0 => b.disCH0
  | .haft => b.haft
  | .pttwi => b.pttwi
  | .d128 => b.d128
  | .aie => b.aie
  | .poe => b.poe
  | .e0poe => b.e0poe
  | .pie => b.pie
  | .pnch => b.pnch

/-- All bits 0. -/
def FieldBits.zero : FieldBits where
  fngna1 := false
  fngna0 := false
  fng1 := false
  fng0 := false
  a2 := false
  disCH1 := false
  disCH0 := false
  haft := false
  pttwi := false
  d128 := false
  aie := false
  poe := false
  e0poe := false
  pie := false
  pnch := false

/-- The 64-bit value with a 1 at the position of every field of a list that `p` picks. -/
def maskOver (p : Field → Bool) : List Field → Word
  | [] => 0
  | f :: fs => (if p f then BitVec.twoPow 64 f.pos else 0) ||| maskOver p fs

/-- The 64-bit value with a 1 at the position of every field `p` picks, all other bits 0. -/
def maskOf (p : Field → Bool) : Word :=
  maskOver p Field.all

/-- Whether a field's bit is a named storage bit of this implementation: the register is present (00_scope.md R2), the field's
feature is implemented, and it is not the PTTWI that is fixed at 0 (10_state.md R45). -/
def Field.named (c : Config) (f : Field) : Bool :=
  c.registerPresent && f.feature c &&
    match f with
    | .pttwi => !c.pttwiRO0
    | .fngna1 | .fngna0 | .fng1 | .fng0 | .a2 | .disCH1 | .disCH0 | .haft | .d128 | .aie | .poe | .e0poe | .pie
    | .pnch => true

/-- NamedMask (10_state.md R45). -/
def namedMask (c : Config) : Word :=
  maskOf (Field.named c)

/-- FixedZeroMask (10_state.md R45; 90_conflicts.md C4). -/
def fixedZeroMask (c : Config) : Word :=
  if c.featTHE && c.pttwiRO0 then 0x0000000000000400 else 0

/-- StorageMask: the bits of the register that hold what is written (10_state.md R39, R45). An absent register "holds no state"
(00_scope.md R2): it has no storage bit (log 23). -/
def storageMask (c : Config) : Word :=
  if c.registerPresent then namedMask c ||| (c.res0StorageMask &&& ~~~namedMask c &&& ~~~fixedZeroMask c) else 0

/-- The stored value a write of `v` leaves when the bits of `ro` are read-only (10_state.md R45, 40 R102). -/
def mergeTcr2 (c : Config) (old v ro : Word) : Word :=
  ((old &&& ro) ||| (v &&& ~~~ro)) &&& storageMask c

/-- The stored value after Warm reset with the unknown draw `u` (70_reset_and_hazards.md R162). -/
def warmResetValue (c : Config) (u : Word) : Word :=
  if c.highestEL = .el1 then u &&& storageMask c &&& ~~~(0x0000000000000C3F &&& namedMask c) else u &&& storageMask c

end Sys2Proof.Machine
end

