-- ==== Sys2Proof/Machine/Memory.lean ====
section
/-! DEFINITION. Memory as a list of (address, byte) pairs in one canonical form, and the program text as a partial map in the
same form without a default (20_memory.md R59, R60, R62, R70(a), R73). -/

namespace Sys2Proof.Machine

/-- The byte memory of 20_memory.md R59: addresses of 64 bits, bytes of 8 bits. -/
abbrev Memory := List Host.Cell

/-- The program text, a partial map from byte addresses (20_memory.md R73, 92 D29). -/
abbrev Text := List Host.Cell

/-- What an unlisted address reads as. DESIGN CHOICE (log 7; unsafe): no rule gives the contents of memory nothing has
written, and any contents can be listed. -/
def unlistedByte : Byte := 0

/-- The byte listed at an address. -/
def lookupCell : List Host.Cell → Nat → Option Byte
  | [], _ => none
  | (b, v) :: m, a => if a = b then some v else lookupCell m a

/-- Take the entries of an address out. -/
def removeCell (m : List Host.Cell) (a : Nat) : List Host.Cell :=
  m.filter fun c => c.1 != a

/-- Put an entry in front of the first larger address. -/
def insertCell (a : Nat) (v : Byte) : List Host.Cell → List Host.Cell
  | [] => [(a, v)]
  | c :: m => if a < c.1 then (a, v) :: c :: m else c :: insertCell a v m

/-- The byte at an address of memory. -/
def Memory.readByte (m : Memory) (a : Nat) : Byte :=
  (lookupCell m a).getD unlistedByte

/-- Write one byte; a byte equal to what an unlisted address reads as leaves no entry. -/
def Memory.writeByte (m : Memory) (a : Nat) (v : Byte) : Memory :=
  if v = unlistedByte then removeCell m a else insertCell a v (removeCell m a)

/-- Place one byte of program text. -/
def Text.put (m : Text) (a : Nat) (v : Byte) : Text :=
  insertCell a v (removeCell m a)

/-- Whether an address holds program text. -/
def Text.holds (m : Text) (a : Nat) : Bool :=
  (lookupCell m a).isSome

/-- Addresses strictly rising. -/
def cellsRise : List Host.Cell → Bool
  | [] => true
  | c :: m => (m.all fun d => decide (c.1 < d.1)) && cellsRise m

/-- Every address is one of 64 bits. -/
def cellsInSpace (m : List Host.Cell) : Bool :=
  m.all fun c => decide (c.1 < 2 ^ 64)

/-- The canonical form of memory: addresses strictly rising, in the address space, and no entry equal to what an unlisted
address reads as. -/
def Memory.wf (m : Memory) : Bool :=
  cellsRise m && cellsInSpace m && m.all fun c => c.2 != unlistedByte

/-- The canonical form of program text. -/
def Text.wf (m : Text) : Bool :=
  cellsRise m && cellsInSpace m

/-- Byte `k` of a 64-bit value, byte 0 the least significant. -/
def valueByte (v : Word) (k : Nat) : Byte :=
  v.extractLsb' (8 * k) 8

/-- The 64-bit value of eight bytes, `b 0` the least significant. -/
def valueOfBytes (b : Nat → Byte) : Word :=
  b 7 ++ b 6 ++ b 5 ++ b 4 ++ b 3 ++ b 2 ++ b 1 ++ b 0

/-- The significance of the byte at offset `k` of an 8-byte access: `k` itself, or reversed when big-endian (20_memory.md
R62). -/
def byteRank (bigEndian : Bool) (k : Nat) : Nat :=
  if bigEndian then 7 - k else k

/-- The byte address at offset `k` of an access at `a`. -/
def byteAddr (a : Word) (k : Nat) : Nat :=
  (a + BitVec.ofNat 64 k).toNat

/-- MemRead(a, 8) (00_scope.md R10; 20_memory.md R61, R62). -/
def memRead8 (bigEndian : Bool) (m : Memory) (a : Word) : Word :=
  valueOfBytes fun k => m.readByte (byteAddr a (byteRank bigEndian k))

/-- Store the first `n` bytes of an 8-byte access. -/
def storeBytes (bigEndian : Bool) (m : Memory) (a v : Word) : Nat → Memory
  | 0 => m
  | n + 1 => Memory.writeByte (storeBytes bigEndian m a v n) (byteAddr a n) (valueByte v (byteRank bigEndian n))

/-- MemWrite(a, 8, v) (00_scope.md R10; 20_memory.md R61, R62). -/
def memWrite8 (bigEndian : Bool) (m : Memory) (a v : Word) : Memory :=
  storeBytes bigEndian m a v 8

end Sys2Proof.Machine
end

