-- ==== Sys2Proof/Machine/State.lean ====
section
/-! DEFINITION. The machine's state as plain data (10_state.md R20, R47 to R53), the moves of its agents, the reasons a step
can stop (60_exceptions.md R139), and the state right after reset (70_reset_and_hazards.md R162, R163). -/

namespace Sys2Proof.Machine

/-- The inputs of 10_state.md R51 and R52: values owned by other registers and mechanisms, which the six instructions read
and never write. A 1-bit field of a register is a Bool, true for '1'. -/
structure Inputs where
  /-- EL2Enabled(). -/
  el2Enabled : Bool
  /-- EL3SDDUndefPriority(). -/
  el3SDDUndefPriority : Bool
  /-- EL3SDDUndef(). -/
  el3SDDUndef : Bool
  /-- SCR_EL3.TCR2En. -/
  scrTCR2En : Bool
  /-- SCR_EL3.FGTEn. -/
  scrFGTEn : Bool
  /-- SCR_EL3.FGTEn2. -/
  scrFGTEn2 : Bool
  /-- HCR_EL2.TRVM. -/
  hcrTRVM : Bool
  /-- HCR_EL2.TVM. -/
  hcrTVM : Bool
  /-- HFGRTR_EL2.TCR_EL1 (so named by the page, not TCR2_EL1). -/
  hfgrtrTcrEl1 : Bool
  /-- HFGWTR_EL2.TCR_EL1 (so named by the page, not TCR2_EL1). -/
  hfgwtrTcrEl1 : Bool
  /-- HFGRTR2_EL2.nTCR2ALIAS_EL1. -/
  hfgrtr2NAlias : Bool
  /-- HFGWTR2_EL2.nTCR2ALIAS_EL1. -/
  hfgwtr2NAlias : Bool
  /-- IsHCRXEL2Enabled(). -/
  isHCRXEL2Enabled : Bool
  /-- HCRX_EL2.TCR2En. -/
  hcrxTCR2En : Bool
  /-- HCRX_EL2.PTTWI. -/
  hcrxPTTWI : Bool
  /-- EffectiveHCR_EL2_NVx(). -/
  nvx : BitVec 3
  /-- ELIsInHost(EL2). -/
  el2IsInHost : Bool
  /-- The Effective value of HCR_EL2.E2H. -/
  hcrE2H : Bool
  /-- IsSystemRegisterMaskingEnabled(EL1). -/
  srMaskingEnabled : Bool
  /-- NVMemBase (20_memory.md R60). -/
  nvMemBase : Word
  /-- TCR2MASK_EL1, by field name (R52). -/
  tcr2Mask : FieldBits
deriving DecidableEq, Repr

/-- The inputs of `State.reset`. DESIGN CHOICE (log 5; unsafe for statements about `State.reset` only): all 0 or false, where
the spec leaves them to the environment (70 R163). -/
def Inputs.zero : Inputs where
  el2Enabled := false
  el3SDDUndefPriority := false
  el3SDDUndef := false
  scrTCR2En := false
  scrFGTEn := false
  scrFGTEn2 := false
  hcrTRVM := false
  hcrTVM := false
  hfgrtrTcrEl1 := false
  hfgwtrTcrEl1 := false
  hfgrtr2NAlias := false
  hfgwtr2NAlias := false
  isHCRXEL2Enabled := false
  hcrxTCR2En := false
  hcrxPTTWI := false
  nvx := 0
  el2IsInHost := false
  hcrE2H := false
  srMaskingEnabled := false
  nvMemBase := 0
  tcr2Mask := FieldBits.zero

/-- The unknown draws of one Warm reset (70_reset_and_hazards.md R160, R163): `u` for TCR2_EL1, and one value each for
TCR2_EL2 and x[0] to x[30]. -/
structure ResetDraw where
  u : Word
  tcr2El2 : Word
  x : Vector Word 31
deriving DecidableEq, Repr

/-- What an access to TCR2_EL1 does to it. -/
inductive AccessEffect where
  /-- The stored value goes to general-purpose register `t`. -/
  | read (t : Nat)
  /-- `v`, already merged, becomes the stored value. -/
  | write (v : Word)
deriving DecidableEq, Repr

/-- An access executed at EL3 whose effect on TCR2_EL1 has not happened yet (20_memory.md R68, log 19). -/
structure OutstandingAccess where
  name : Accessor
  effect : AccessEffect
deriving DecidableEq, Repr

/-- The two kinds of NVMem access. -/
inductive NvMemKind where
  | read
  | write
deriving DecidableEq, Repr

/-- One NVMem access of this PE: "the 8-byte access is one memory event, not split" (20_memory.md R64, R70(b)). -/
structure NvMemEvent where
  kind : NvMemKind
  /-- The address of the first of the 8 bytes. -/
  addr : Word
  /-- The value read or written. -/
  value : Word
deriving DecidableEq, Repr

/-- What moves next (log 6). One move is one step. -/
inductive Move where
  /-- The PE executes the instruction at pc, and its effects happen now. -/
  | execute
  /-- The PE executes the instruction at pc, and, if it is an access R68 leaves unordered, its effect on TCR2_EL1 stays
  outstanding. -/
  | executeLate
  /-- The effect of the oldest outstanding access by this name happens (20_memory.md R68). -/
  | perform (name : Accessor)
  /-- The abstract step Synchronize (20_memory.md R70). -/
  | synchronize
  /-- The inputs take new values (10_state.md R51). -/
  | setInputs (i : Inputs)
  /-- Another agent stores a byte (20_memory.md R64). -/
  | agentStore (a : Word) (v : Byte)
  /-- The cached copies of the register's fields are removed (10_state.md R46). -/
  | dropCached
  /-- Warm reset (70_reset_and_hazards.md R160). -/
  | warmReset (d : ResetDraw)
deriving DecidableEq, Repr

/-- The machine's state. INVENTORY.md lists every field with its rule and its reset value. -/
structure State where
  /-- The implementation's parameters, constant (log 1). -/
  cfg : Config
  /-- The inputs of R51 and R52. -/
  inputs : Inputs
  /-- PSTATE.EL (R49). -/
  el : EL
  /-- The program counter (R50). -/
  pc : Word
  /-- x[0] to x[30] (R47); read and written through `readX` and `writeX` only. -/
  x : Vector Word 31
  /-- The stored value of TCR2_EL1 (R20). -/
  tcr2El1 : Word
  /-- TCR2_EL2, an opaque cell (R48). -/
  tcr2El2 : Word
  /-- Memory (20_memory.md R59). -/
  mem : Memory
  /-- The program text (20_memory.md R73). -/
  text : Text
  /-- The model's own: accesses R68 leaves unordered whose effect is outstanding, oldest first (log 19). -/
  outstanding : List OutstandingAccess
  /-- The events of this PE's NVMem accesses, in program order (20_memory.md R70(b), log 33). -/
  nvMemEvents : List NvMemEvent
  /-- The model's own: stored values of TCR2_EL1 that an MSR since the last Synchronize has found or left, where it changes the
  register (70 R167, log 20). -/
  unsynced : List Word
  /-- The model's own: the effective values those had when the MSR was executed, and when its effect happened (70 R167, log
  20). -/
  unsyncedEff : List FieldBits
  /-- The model's own: effective values in force since cached copies were last removed (10_state.md R46, log 20). -/
  cachedEff : List FieldBits
  /-- The model's own: the agents' next moves; when empty the PE executes (log 6). -/
  schedule : List Move
deriving DecidableEq, Repr

/-- The Exception level that takes a trap: "the first argument is `EL2` or `EL3`, never EL1" (60_exceptions.md R130). -/
inductive TrapTarget where
  | el2
  | el3
deriving DecidableEq, Repr

/-- The faults. Each is terminal and leaves the state exactly as before the instruction (60_exceptions.md R139). -/
inductive Fault where
  /-- `Fault(Undefined, pc, word)` (60_exceptions.md R131, R139). Raised by every instruction; safe: a real PE goes on at a
  handler no source describes. -/
  | undefined (pc : Word) (word : InstrWord)
  /-- `Fault(Trap(target, 0x18), pc, word)` (60_exceptions.md R132, R139). Raised by every instruction; safe, as above. -/
  | trap (target : TrapTarget) (code : BitVec 6) (pc : Word) (word : InstrWord)
  /-- No step: an NVMem access whose 8 bytes are not all admitted, "the PE is stuck" (20_memory.md R65). Raised by the three
  MRS and the three MSR at EL1; safe: it is never answered with a value. -/
  | nvMemNotAdmitted (pc : Word) (word : InstrWord)
deriving DecidableEq, Repr

/-- The refusals: the spec gives the situation no meaning. -/
inductive Refusal where
  /-- An instruction that has no meaning yet; no arm of exec answers it. Safe. -/
  | notModelled (mnemonic : String)
  /-- The word at pc is none of the six (30_encoding.md R87). Raised by the fetch; safe. -/
  | notInThisSpec (word : InstrWord)
  /-- pc is not a multiple of 4 (30_encoding.md R82). Raised by the fetch; safe. -/
  | misalignedFetch (pc : Word)
  /-- The program text does not hold four bytes at pc (93_implementation_defined.md I6; the end of a run, 70 R172). Raised by
  the fetch; safe. -/
  | fetchOutsideText (pc : Word)
  /-- An NVMem access with NVMemBase not a multiple of 8 (20_memory.md R63). Raised by the accesses at EL1; safe. -/
  | nvMemBaseMisaligned (base : Word)
  /-- An NVMem write to an address that holds program text (20_memory.md R73). Raised by the three MSR at EL1; safe. -/
  | nvMemWriteOntoText (addr : Word)
deriving DecidableEq, Repr

/-- The unknown draw `State.reset` names. DESIGN CHOICE (log 2; unsafe): R160 lets it be any value; this one is the draw of
the spec's own reset vectors (95_test_vectors.md, section 7), so no field is picked to be 0. -/
def resetDrawU : Word := 0xDEADBEEFCAFEF00D

/-- The machine right after Warm reset, for the implementation `Config.reference` and the draw `resetDrawU` (70 R162, R163;
logs 1 to 8). x[0] to x[30] and TCR2_EL2, unknown after reset, are 0 here (log 3). -/
def State.reset : State where
  cfg := Config.reference
  inputs := Inputs.zero
  el := Config.reference.resetEL
  pc := Config.reference.resetPC
  x := Vector.replicate 31 0
  tcr2El1 := warmResetValue Config.reference resetDrawU
  tcr2El2 := 0
  mem := []
  text := []
  outstanding := []
  nvMemEvents := []
  unsynced := []
  unsyncedEff := []
  cachedEff := []
  schedule := []

end Sys2Proof.Machine
end

