-- ==== Sys2Proof/Machine/Flags.lean ====
section
/-! DEFINITION. The one-bit computations of the spec. There is no condition flag: no instruction reads or writes one
(10_state.md R49; 40_access_tcr2_el1.md R100, R109). What the spec computes are the control conditions of the access chains
(R41, R42, R103), the read-only mask (R44), and the effective value of each field (R43). -/

namespace Sys2Proof.Machine

/-- `HaveEL(EL3) && SCR_EL3.TCR2En == '0'`, the S0 of the decision tables (40 R103). -/
def scrDisables (c : Config) (n : Inputs) : Bool :=
  c.haveEL3 && !n.scrTCR2En

/-- The Effective value of HCRX_EL2.TCR2En (10_state.md R41; DEDUCED by the spec, D7, log 18). -/
def effTCR2En (n : Inputs) : Bool :=
  n.isHCRXEL2Enabled && n.hcrxTCR2En

/-- TCR2Ignored(): every field "is ignored by the PE and treated as zero" (10_state.md R42). -/
def tcr2Ignored (c : Config) (n : Inputs) : Bool :=
  (n.el2Enabled && !effTCR2En n) || scrDisables c n

/-- Whether the register acts at all: it is present, since an absent one holds no state to act (00_scope.md R2, log 23), and it
is not ignored (10_state.md R42). -/
def inEffect (c : Config) (n : Inputs) : Bool :=
  c.registerPresent && !tcr2Ignored c n

/-- The effective value of D128, the `d` of 10_state.md R43. -/
def effD128 (c : Config) (n : Inputs) (w : Word) : Bool :=
  c.featD128 && inEffect c n && w.getLsbD 5

/-- The effective value of every field when the stored value is `w` (10_state.md R43). -/
def effective (c : Config) (n : Inputs) (w : Word) : FieldBits where
  fngna1 := c.featTHE && inEffect c n && w.getLsbD 21
  fngna0 := c.featTHE && inEffect c n && w.getLsbD 20
  fng1 := c.featASID2 && inEffect c n && w.getLsbD 18
  fng0 := c.featASID2 && inEffect c n && w.getLsbD 17
  a2 := c.featASID2 && inEffect c n && w.getLsbD 16
  disCH1 := effD128 c n w && w.getLsbD 15
  disCH0 := effD128 c n w && w.getLsbD 14
  haft := c.featHAFT && inEffect c n && w.getLsbD 11
  pttwi := c.featTHE && inEffect c n && !c.pttwiRO0 && w.getLsbD 10
  d128 := effD128 c n w
  aie := c.featAIE && inEffect c n && (effD128 c n w || w.getLsbD 4)
  poe := c.featS1POE && inEffect c n && w.getLsbD 3
  e0poe := c.featS1POE && inEffect c n && w.getLsbD 2
  pie := c.featS1PIE && inEffect c n && (effD128 c n w || w.getLsbD 1)
  pnch := c.featTHE && inEffect c n && !effD128 c n w && w.getLsbD 0

/-- The effective values at this instant, from the inputs of this instant (70_reset_and_hazards.md R168). -/
def State.eff (s : State) : FieldBits :=
  effective s.cfg s.inputs s.tcr2El1

/-- ROMask(): the positions that are read-only at this instant; the existence of DisCH1 and DisCH0 is taken from the stored
D128 before the write (10_state.md R44). -/
def roMask (s : State) : Word :=
  if s.cfg.featSRMASK && (s.el == .el1) && s.inputs.srMaskingEnabled then
    maskOf fun f => f.existsIn s.cfg s.tcr2El1 && s.inputs.tcr2Mask.get f
  else 0

end Sys2Proof.Machine
end

