-- ==== Sys2Proof/Machine/Operands.lean ====
section
/-! DEFINITION. The one operand form, `<Xt>`: the 64-bit view of general-purpose register t, with t = 31 the zero register
(10_state.md R47; 30_encoding.md R83; PRESUMED by the spec, G4, log 14). There is no immediate and no other width. -/

namespace Sys2Proof.Machine

/-- `x[t]`: register t, and 0 for the zero register (10_state.md R47). -/
def State.readX (s : State) (t : Nat) : Word :=
  s.x[t]?.getD 0

/-- `x[t] <- v`: a write to the zero register is discarded (10_state.md R47). -/
def State.writeX (s : State) (t : Nat) (v : Word) : State :=
  { s with x := s.x.setIfInBounds t v }

/-- Whether two operands name the same stored register; the zero register is no storage. -/
def sameRegister (t u : Nat) : Bool :=
  decide (t = u) && decide (t < 31)

end Sys2Proof.Machine
end

