-- ==== Sys2Proof/Machine/Ops.lean ====
section
/-! DEFINITION. The operations the six meanings share: taking an exception (60_exceptions.md R131, R132, R139), the writes of
System registers (10_state.md R45, R48), the NVMem access (20_memory.md R60 to R66, R73), the test chain that three arms
share (40 R101, R102; 42 R120), and the completion of an MRS and of an MSR (40 R100). -/

namespace Sys2Proof.Machine

/-- The three outcomes of an instruction or a step. -/
abbrev Result := Host.Outcome State Fault Refusal

/-- A list with `a` in it, each value once. -/
def remember {α : Type} [DecidableEq α] (a : α) (l : List α) : List α :=
  if a ∈ l then l else a :: l

/-- A list with all of `as` in it. -/
def rememberAll {α : Type} [DecidableEq α] (as l : List α) : List α :=
  as.foldr remember l

/-! ### Taking an exception, and the return from one

R139: the outcome is a fault that records the pc and the word; the state is as before the instruction and has no successor.
The spec describes no entry (R138) and no return (R140), so there is no register to save into and nothing to restore. -/

/-- `raise Undefined()` (60_exceptions.md R131, R139). -/
def raiseUndefined (i : Instr) (s : State) : Result :=
  .fault (.undefined s.pc (encode i))

/-- The second argument of every AArch64_SystemAccessTrap call (60_exceptions.md R130, R132). -/
def trapCode : BitVec 6 := 0x18

/-- `raise SystemAccessTrap(target, 0x18)` (60_exceptions.md R132, R139). -/
def raiseTrap (target : TrapTarget) (i : Instr) (s : State) : Result :=
  .fault (.trap target trapCode s.pc (encode i))

/-- The low 32 bits of the ESR_ELx a larger model would record for a trap of this instruction: EC = 0x18, IL = 1, and the ISS
(60_exceptions.md R133; PRESUMED, log 11; nothing in this model depends on it). -/
def trapSyndrome (i : Instr) : BitVec 32 :=
  trapCode ++ 1#1 ++ trapISS i

/-! ### Register writes -/

/-- `pc <- pc + 4` modulo 2^64, the end of a normal completion (10_state.md R50, 40 R100). -/
def State.advance (s : State) : State :=
  { s with pc := s.pc + 4 }

/-- The stored values between which 70 R167 leaves the choice, for an MSR that stores `v` and may find any of `olds`: `v` and those
it changes; none where it "changes the stored value" in no case. -/
def changedValues (olds : List Word) (v : Word) : List Word :=
  match olds.filter (· != v) with
  | [] => []
  | l => v :: l

/-- The window of 70 R167 opens for the stored values `ws`: they, and the effective values they have under the inputs of this
instant, join what a translation may use until Synchronize. -/
def State.openWindow (s : State) (ws : List Word) : State :=
  { s with
    unsynced := rememberAll ws s.unsynced
    unsyncedEff := rememberAll (ws.map (effective s.cfg s.inputs)) s.unsyncedEff }

/-- The stored value of TCR2_EL1 becomes `v`. If that changes it, the window of 70 R167 opens for the old and the new value. The
effective values in force until now join what a TLB may hold (10_state.md R46). -/
def State.putTcr2El1 (s : State) (v : Word) : State :=
  { s.openWindow (changedValues [s.tcr2El1] v) with
    tcr2El1 := v
    cachedEff := remember s.eff s.cachedEff }

/-- TCR2_EL2 takes all 64 bits unchanged (10_state.md R48). -/
def State.putTcr2El2 (s : State) (v : Word) : State :=
  { s with tcr2El2 := v }

/-! ### The NVMem access -/

/-- The address of `NVMem(0x270)`, modulo 2^64 (20_memory.md R60). -/
def State.nvMemAddr (s : State) : Word :=
  s.inputs.nvMemBase + 0x270

/-- The premise `NVMemBase[2:0] == 0` (20_memory.md R63). -/
def State.nvMemAligned (s : State) : Bool :=
  s.inputs.nvMemBase.extractLsb' 0 3 == 0#3

/-- Whether a byte address is admitted (20_memory.md R65). -/
def admits (c : Config) (a : Nat) : Bool :=
  c.admitted.any fun r => decide (r.base ≤ a) && decide (a < r.base + r.size)

/-- Whether all 8 bytes of the access are admitted (20_memory.md R65). -/
def State.nvMemAdmitted (s : State) : Bool :=
  (List.range 8).all fun k => admits s.cfg (byteAddr s.nvMemAddr k)

/-- Whether one of the 8 bytes holds program text (20_memory.md R73). -/
def State.nvMemOnText (s : State) : Bool :=
  (List.range 8).any fun k => s.text.holds (byteAddr s.nvMemAddr k)

/-- NVMemRead() (20_memory.md R60). -/
def State.nvMemValue (s : State) : Word :=
  memRead8 s.cfg.nvMemBigEndian s.mem s.nvMemAddr

/-- NVMemWrite(v) (20_memory.md R60). -/
def State.putNvMem (s : State) (v : Word) : State :=
  { s with mem := memWrite8 s.cfg.nvMemBigEndian s.mem s.nvMemAddr v }

/-- The access joins the record of events (20_memory.md R70(b), log 33). -/
def State.recordNvMem (s : State) (k : NvMemKind) (v : Word) : State :=
  { s with nvMemEvents := s.nvMemEvents ++ [{ kind := k, addr := s.nvMemAddr, value := v }] }

/-- `x[t] <- MemRead(NVMemBase + 0x270, 8)`: refused with the base misaligned (20_memory.md R63), stuck outside the admitted
set (R65; the order of the two is a DESIGN CHOICE, log 9). -/
def completeNvMemRead (i : Instr) (t : Nat) (s : State) : Result :=
  if !s.nvMemAligned then .refused (.nvMemBaseMisaligned s.inputs.nvMemBase)
  else if !s.nvMemAdmitted then .fault (.nvMemNotAdmitted s.pc (encode i))
  else .next ((s.writeX t s.nvMemValue).recordNvMem .read s.nvMemValue).advance

/-- `MemWrite(NVMemBase + 0x270, 8, x[t])`: as the read, and refused on program text (20_memory.md R73). -/
def completeNvMemWrite (i : Instr) (t : Nat) (s : State) : Result :=
  if !s.nvMemAligned then .refused (.nvMemBaseMisaligned s.inputs.nvMemBase)
  else if !s.nvMemAdmitted then .fault (.nvMemNotAdmitted s.pc (encode i))
  else if s.nvMemOnText then .refused (.nvMemWriteOntoText s.nvMemAddr)
  else .next ((s.putNvMem (s.readX t)).recordNvMem .write (s.readX t)).advance

/-! ### The outcome of an access -/

/-- Where an access that is neither Undefined nor trapped goes (40 R100). -/
inductive Place where
  | tcr2El1
  | tcr2El2
  | nvMem
deriving DecidableEq, Repr

/-- What the chain of tests decides. With the direction of the instruction these are the nine outcomes of 40 R100. -/
inductive Verdict where
  | undefined
  | trapEl2
  | trapEl3
  | go (p : Place)
deriving DecidableEq, Repr

/-- The two tests of `SCR_EL3.TCR2En` at EL2: Undefined at high priority, then Undefined or the trap to EL3 (40 R101, R102;
41 R111, R112; 42 R121, R122; 60 R134). -/
def el3Gate (s : State) (next : Verdict) : Verdict :=
  if s.cfg.haveEL3 && s.inputs.el3SDDUndefPriority && !s.inputs.scrTCR2En then .undefined
  else if s.cfg.haveEL3 && !s.inputs.scrTCR2En then
    if s.inputs.el3SDDUndef then .undefined else .trapEl3
  else next

/-- The chain that the accessor names TCR2_EL1 and TCR2ALIAS_EL1 share from the register condition on; they differ in
`fineTrap`, the fine-grained trap test, and MRS differs from MSR in `vmTrap`, the bit TRVM or TVM (40 R101, R102; 42 R120 to
R122; priorities, 60 R136). -/
def verdictTcr2 (s : State) (vmTrap fineTrap : Bool) : Verdict :=
  if !s.cfg.registerPresent then .undefined
  else match s.el with
    | .el0 => .undefined
    | .el1 =>
      if s.cfg.haveEL3 && s.inputs.el3SDDUndefPriority && !s.inputs.scrTCR2En then .undefined
      else if s.inputs.el2Enabled && vmTrap then .trapEl2
      else if s.inputs.el2Enabled && fineTrap then .trapEl2
      else if s.inputs.el2Enabled && (!s.inputs.isHCRXEL2Enabled || !s.inputs.hcrxTCR2En) then .trapEl2
      else if s.cfg.haveEL3 && !s.inputs.scrTCR2En then
        if s.inputs.el3SDDUndef then .undefined else .trapEl3
      else if s.inputs.nvx == 0b111#3 then .go .nvMem
      else .go .tcr2El1
    | .el2 => el3Gate s (if s.inputs.el2IsInHost then .go .tcr2El2 else .go .tcr2El1)
    | .el3 => .go .tcr2El1

/-- The end of an MRS (40 R100). The read value is the stored value (10_state.md R45). -/
def completeRead (i : Instr) (t : Nat) (v : Verdict) (s : State) : Result :=
  match v with
  | .undefined => raiseUndefined i s
  | .trapEl2 => raiseTrap .el2 i s
  | .trapEl3 => raiseTrap .el3 i s
  | .go .tcr2El1 => .next (s.writeX t s.tcr2El1).advance
  | .go .tcr2El2 => .next (s.writeX t s.tcr2El2).advance
  | .go .nvMem => completeNvMemRead i t s

/-- The end of an MSR (40 R100); `ro` is the read-only mask a write of TCR2_EL1 is merged under (10_state.md R45). -/
def completeWrite (i : Instr) (t : Nat) (ro : Word) (v : Verdict) (s : State) : Result :=
  match v with
  | .undefined => raiseUndefined i s
  | .trapEl2 => raiseTrap .el2 i s
  | .trapEl3 => raiseTrap .el3 i s
  | .go .tcr2El1 => .next (s.putTcr2El1 (mergeTcr2 s.cfg s.tcr2El1 (s.readX t) ro)).advance
  | .go .tcr2El2 => .next (s.putTcr2El2 (s.readX t)).advance
  | .go .nvMem => completeNvMemWrite i t s

end Sys2Proof.Machine
end

