-- ==== Sys2Proof/Machine/Fetch.lean ====
section
/-! DEFINITION. Instruction fetch from the program text, and placing words of text (30_encoding.md R82, R87, R90;
20_memory.md R73; 93_implementation_defined.md I5, I6). -/

namespace Sys2Proof.Machine

/-- pc is a multiple of 4 (30_encoding.md R82). -/
def State.pcAligned (s : State) : Bool :=
  s.pc.extractLsb' 0 2 == 0#2

/-- The instruction at pc, or the refusal that names why there is none. -/
def fetch (s : State) : Except Refusal Instr :=
  if !s.pcAligned then .error (.misalignedFetch s.pc)
  else
    match lookupCell s.text (byteAddr s.pc 0), lookupCell s.text (byteAddr s.pc 1), lookupCell s.text (byteAddr s.pc 2),
      lookupCell s.text (byteAddr s.pc 3) with
    | some b0, some b1, some b2, some b3 =>
      match decodeBytes [b0, b1, b2, b3] with
      | .ok (i, _) => .ok i
      | .error (.notInThisSpec w) => .error (.notInThisSpec w)
      | .error .truncated => .error (.fetchOutsideText s.pc)
    | _, _, _, _ => .error (.fetchOutsideText s.pc)

/-- Place the first `n` bytes of a word of text at `a`. -/
def placeBytes (t : Text) (a : Word) (w : InstrWord) : Nat → Text
  | 0 => t
  | n + 1 => Text.put (placeBytes t a w n) (byteAddr a n) (wordByte w n)

/-- Place one instruction word, little-endian (30_encoding.md R82). -/
def placeWord (t : Text) (a : Word) (w : InstrWord) : Text :=
  placeBytes t a w 4

/-- Place words at `a`, `a + 4`, and so on (70_reset_and_hazards.md R172). -/
def placeWords (t : Text) (a : Word) : List InstrWord → Text
  | [] => t
  | w :: ws => placeWords (placeWord t a w) (a + 4) ws

/-- The state that fetches this word next, in program order. -/
def State.placeNext (s : State) (nbits w : Nat) : State :=
  { s with
    text := placeWord s.text s.pc (BitVec.ofNat 32 (w % 2 ^ nbits))
    schedule := .execute :: s.schedule }

end Sys2Proof.Machine
end

