-- ==== Sys2Proof/Machine/AccessTcr2Alias.lean ====
section
/-! DEFINITION. MRS and MSR with accessor name TCR2ALIAS_EL1 (42_access_tcr2alias_el1.md R121, R122). -/

namespace Sys2Proof.Machine

/-- The fine-grained trap of the name TCR2ALIAS_EL1: negative polarity, and forced when EL3 leaves `SCR_EL3.FGTEn2` 0 (42
R121, R122). -/
def fineTrapTcr2Alias (s : State) (nBit : Bool) : Bool :=
  s.cfg.featFGT2 && ((s.cfg.haveEL3 && !s.inputs.scrFGTEn2) || !nBit)

/-- The chain of `MRS <Xt>, TCR2ALIAS_EL1`: the accessor condition FEAT_SRMASK first (42 R121; 30_encoding.md R85). -/
def verdictMrsTcr2AliasEl1 (s : State) : Verdict :=
  if !s.cfg.featSRMASK then .undefined
  else verdictTcr2 s s.inputs.hcrTRVM (fineTrapTcr2Alias s s.inputs.hfgrtr2NAlias)

/-- The chain of `MSR TCR2ALIAS_EL1, <Xt>` (42 R122). -/
def verdictMsrTcr2AliasEl1 (s : State) : Verdict :=
  if !s.cfg.featSRMASK then .undefined
  else verdictTcr2 s s.inputs.hcrTVM (fineTrapTcr2Alias s s.inputs.hfgwtr2NAlias)

/-- `MRS <Xt>, TCR2ALIAS_EL1` (42 R121). -/
def execMrsTcr2AliasEl1 (t : Nat) (s : State) : Result :=
  completeRead (.mrsTcr2AliasEl1 t) t (verdictMrsTcr2AliasEl1 s) s

/-- `MSR TCR2ALIAS_EL1, <Xt>` (42 R122). Whether the write is masked is the parameter AliasWriteMasked (10_state.md R45,
log 17). -/
def execMsrTcr2AliasEl1 (t : Nat) (s : State) : Result :=
  completeWrite (.msrTcr2AliasEl1 t) t (if s.cfg.aliasWriteMasked then roMask s else 0) (verdictMsrTcr2AliasEl1 s) s

end Sys2Proof.Machine
end

