-- ==== Sys2Proof/Machine/AccessTcr2El1.lean ====
section
/-! DEFINITION. MRS and MSR with accessor name TCR2_EL1 (40_access_tcr2_el1.md R101, R102). There is no accessor
condition. -/

namespace Sys2Proof.Machine

/-- The fine-grained trap of the name TCR2_EL1: positive polarity, off when EL3 leaves `SCR_EL3.FGTEn` 0 (40 R101, R102). -/
def fineTrapTcr2El1 (s : State) (bit : Bool) : Bool :=
  s.cfg.featFGT && (!s.cfg.haveEL3 || s.inputs.scrFGTEn) && bit

/-- The chain of `MRS <Xt>, TCR2_EL1` (40 R101). -/
def verdictMrsTcr2El1 (s : State) : Verdict :=
  verdictTcr2 s s.inputs.hcrTRVM (fineTrapTcr2El1 s s.inputs.hfgrtrTcrEl1)

/-- The chain of `MSR TCR2_EL1, <Xt>` (40 R102). -/
def verdictMsrTcr2El1 (s : State) : Verdict :=
  verdictTcr2 s s.inputs.hcrTVM (fineTrapTcr2El1 s s.inputs.hfgwtrTcrEl1)

/-- `MRS <Xt>, TCR2_EL1` (40 R101). -/
def execMrsTcr2El1 (t : Nat) (s : State) : Result :=
  completeRead (.mrsTcr2El1 t) t (verdictMrsTcr2El1 s) s

/-- `MSR TCR2_EL1, <Xt>` (40 R102). The write is subject to masking; `roMask` is 0 at EL2 and EL3 (10_state.md R45). -/
def execMsrTcr2El1 (t : Nat) (s : State) : Result :=
  completeWrite (.msrTcr2El1 t) t (roMask s) (verdictMsrTcr2El1 s) s

end Sys2Proof.Machine
end

