-- ==== Sys2Proof/Machine/AccessTcr2El12.lean ====
section
/-! DEFINITION. MRS and MSR with accessor name TCR2_EL12 (41_access_tcr2_el12.md R111, R112). -/

namespace Sys2Proof.Machine

/-- The chain both directions of the name TCR2_EL12 have (41 R111, R112). The accessor condition FEAT_VHE is tested first, for
MRS as for MSR (30_encoding.md R85; 90_conflicts.md C2, log 16). -/
def verdictTcr2El12 (s : State) : Verdict :=
  if !s.cfg.featVHE then .undefined
  else if !s.cfg.registerPresent then .undefined
  else match s.el with
    | .el0 => .undefined
    | .el1 =>
      if s.inputs.nvx == 0b101#3 then .go .nvMem
      else if s.inputs.nvx.getLsbD 0 then .trapEl2
      else .undefined
    | .el2 => if s.inputs.el2IsInHost then el3Gate s (.go .tcr2El1) else .undefined
    | .el3 => if s.inputs.el2IsInHost then .go .tcr2El1 else .undefined

/-- The chain of `MRS <Xt>, TCR2_EL12` (41 R111). -/
def verdictMrsTcr2El12 (s : State) : Verdict :=
  verdictTcr2El12 s

/-- The chain of `MSR TCR2_EL12, <Xt>` (41 R112). -/
def verdictMsrTcr2El12 (s : State) : Verdict :=
  verdictTcr2El12 s

/-- `MRS <Xt>, TCR2_EL12` (41 R111). -/
def execMrsTcr2El12 (t : Nat) (s : State) : Result :=
  completeRead (.mrsTcr2El12 t) t (verdictMrsTcr2El12 s) s

/-- `MSR TCR2_EL12, <Xt>` (41 R112). The mask is 0: both register writes happen at EL2 or EL3. -/
def execMsrTcr2El12 (t : Nat) (s : State) : Result :=
  completeWrite (.msrTcr2El12 t) t 0 (verdictMsrTcr2El12 s) s

end Sys2Proof.Machine
end

