-- ==== Sys2Proof/Machine/Dispatch.lean ====
section
/-! DEFINITION. One arm per instruction of spec/opcode_table.json, each a direct call of its meaning. -/

namespace Sys2Proof.Machine

def exec (i : Instr) (s : State) : Host.Outcome State Fault Refusal :=
  match i with
  | .mrsTcr2El1 t => Sys2Proof.Machine.execMrsTcr2El1 t s
  | .msrTcr2El1 t => Sys2Proof.Machine.execMsrTcr2El1 t s
  | .mrsTcr2El12 t => Sys2Proof.Machine.execMrsTcr2El12 t s
  | .msrTcr2El12 t => Sys2Proof.Machine.execMsrTcr2El12 t s
  | .mrsTcr2AliasEl1 t => Sys2Proof.Machine.execMrsTcr2AliasEl1 t s
  | .msrTcr2AliasEl1 t => Sys2Proof.Machine.execMsrTcr2AliasEl1 t s

end Sys2Proof.Machine
end

