-- ==== Sys2Proof/Machine/Ordering.lean ====
section
/-! DEFINITION. Program order and the one exception to it (20_memory.md R68, R69, R70): at EL3, with the Effective value of
HCR_EL2.E2H equal to 1 and no Synchronize between, an access by the name TCR2_EL1 and one by the name TCR2_EL12 may have
their effects on TCR2_EL1 in either order. An access is executed late when its effect joins `outstanding`; until that effect
is performed, accesses by the other name overtake it. An effect stays outstanding only while the next instruction is itself an
access of R68, so every other instruction, and the end of the program, finds all effects done (R69, log 19). -/

namespace Sys2Proof.Machine

/-- The chain of an instruction. -/
def verdictOf (i : Instr) (s : State) : Verdict :=
  match i with
  | .mrsTcr2El1 _ => verdictMrsTcr2El1 s
  | .msrTcr2El1 _ => verdictMsrTcr2El1 s
  | .mrsTcr2El12 _ => verdictMrsTcr2El12 s
  | .msrTcr2El12 _ => verdictMsrTcr2El12 s
  | .mrsTcr2AliasEl1 _ => verdictMrsTcr2AliasEl1 s
  | .msrTcr2AliasEl1 _ => verdictMsrTcr2AliasEl1 s

/-- The two names of R68; "it says nothing about TCR2ALIAS_EL1". -/
def crossNamed : Accessor → Bool
  | .tcr2El1 => true
  | .tcr2El12 => true
  | .tcr2AliasEl1 => false

/-- Whether an instruction, executed now, is one of the accesses R68 speaks of. -/
def lateAllowed (i : Instr) (s : State) : Bool :=
  (s.el == .el3) && s.inputs.hcrE2H && crossNamed i.accessor && (verdictOf i s == .go .tcr2El1)

/-- Whether an instruction uses the register an outstanding read has yet to write: general-purpose registers keep program
order. -/
def registerConflict (i : Instr) (d : OutstandingAccess) : Bool :=
  match d.effect with
  | .read t => sameRegister t i.reg
  | .write _ => false

/-- Whether an outstanding access must have had its effect before this instruction: it must, unless the two are a pair of
R68. -/
def mustPrecede (i : Instr) (s : State) (d : OutstandingAccess) : Bool :=
  registerConflict i d || !(lateAllowed i s && (i.accessor != d.name))

/-- The effect of an access on TCR2_EL1, now. -/
def applyEffect (s : State) : AccessEffect → State
  | .read t => s.writeX t s.tcr2El1
  | .write v => s.putTcr2El1 v

/-- The effects of several accesses, in order. -/
def applyEffects (s : State) : List OutstandingAccess → State
  | [] => s
  | d :: ds => applyEffects (applyEffect s d.effect) ds

/-- The effects of all outstanding accesses by the names `p` picks happen, in program order. -/
def performNames (p : Accessor → Bool) (s : State) : State :=
  applyEffects { s with outstanding := s.outstanding.filter fun d => !p d.name }
    (s.outstanding.filter fun d => p d.name)

/-- What stays outstanding before an instruction is executed in program order: accesses by one name stay in order, so all by a
name go when one must. -/
def settle (i : Instr) (s : State) : State :=
  performNames (fun n => s.outstanding.any fun d => (d.name == n) && mustPrecede i s d) s

/-- The same before an instruction is executed late: only the general-purpose registers matter. -/
def settleRegisters (i : Instr) (s : State) : State :=
  performNames (fun n => s.outstanding.any fun d => (d.name == n) && registerConflict i d) s

/-- The effect an access executed late leaves outstanding. At EL3 no bit is read-only (10_state.md R44, R45). -/
def lateEffect (i : Instr) (s : State) : AccessEffect :=
  match i.direction with
  | .read => .read i.reg
  | .write => .write (mergeTcr2 s.cfg s.tcr2El1 (s.readX i.reg) 0)

/-- The stored values TCR2_EL1 may be said to hold: the one it holds, and those outstanding writes have yet to store, since the
order of their effects is open (20_memory.md R68). -/
def State.mayHold (s : State) : List Word :=
  s.tcr2El1 :: s.outstanding.filterMap fun d =>
    match d.effect with
    | .read _ => none
    | .write v => some v

/-- The effective values those have under the inputs of this instant. -/
def State.effMayHold (s : State) : List FieldBits :=
  s.mayHold.map (effective s.cfg s.inputs)

/-- The stored values an access executed late opens the window of 70 R167 for: an MSR is executed when pc moves past it, so its
new value, and each it may find, may be used from then on, whenever its effect happens. -/
def lateWindow (i : Instr) (s : State) : List Word :=
  match lateEffect i s with
  | .read _ => []
  | .write v => changedValues s.mayHold v

/-- An access joins `outstanding` and the PE goes on. -/
def enqueueLate (i : Instr) (s : State) : State :=
  State.advance { s.openWindow (lateWindow i s) with
    outstanding := s.outstanding ++ [{ name := i.accessor, effect := lateEffect i s }] }

/-- The PE executes an access late. -/
def issueLate (i : Instr) (s : State) : State :=
  enqueueLate i (settleRegisters i s)

/-- The effect of the oldest outstanding access by a name happens. -/
def performOldest (n : Accessor) (s : State) : State :=
  match s.outstanding.find? fun d => d.name == n with
  | some d => applyEffect { s with outstanding := s.outstanding.eraseP fun d => d.name == n } d.effect
  | none => s

/-- The effects of all outstanding accesses happen, in program order. -/
def performAll (s : State) : State :=
  performNames (fun _ => true) s

end Sys2Proof.Machine
end

