-- ==== Sys2Proof/Machine/Moves.lean ====
section
/-! DEFINITION. What each agent's move does: the PE executing an instruction, and the events between two instructions
(10_state.md R51; 20_memory.md R64, R68, R70; 60_exceptions.md R135; 70_reset_and_hazards.md R160 to R163). -/

namespace Sys2Proof.Machine

/-- The PE executes the instruction at pc, in program order (20_memory.md R69). Where it ends in a fault nothing is outstanding
before it on any run, so the terminal state of 60_exceptions.md R139 is the state before the step, with every earlier effect in
it (DESIGN CHOICE, logs 10 and 19: `settleBeforeNext` has performed them). -/
def executeNow (s : State) : Result :=
  match fetch s with
  | .ok i => exec i (settle i s)
  | .error r => .refused r

/-- The PE executes the instruction at pc; an access of R68 leaves its effect outstanding, any other instruction is executed
in program order. -/
def executeLate (s : State) : Result :=
  match fetch s with
  | .ok i => if lateAllowed i s then .next (issueLate i s) else exec i (settle i s)
  | .error r => .refused r

/-- Synchronize (20_memory.md R70): accesses before it are ordered before accesses after it, and the window of 70 R167 closes. -/
def synchronize (s : State) : State :=
  { performAll s with unsynced := [], unsyncedEff := [] }

/-- The inputs change; the effective values change with them at once (10_state.md R51; 70 R168). Those the register may be said
to have had until now join what a TLB may hold (10_state.md R46, log 20). -/
def setInputs (n : Inputs) (s : State) : State :=
  { s with inputs := n, cachedEff := rememberAll s.effMayHold s.cachedEff }

/-- Another agent stores a byte (20_memory.md R64, R70). -/
def agentStore (a : Word) (v : Byte) (s : State) : State :=
  { s with mem := Memory.writeByte s.mem a.toNat v }

/-- The event that removes cached copies of the fields (10_state.md R46; which event it is, no rule says). -/
def dropCached (s : State) : State :=
  { s with cachedEff := [] }

/-- Warm reset with the draws `d` (70_reset_and_hazards.md R160, R162, R163). Memory is not reset (10_state.md R53); the
program text, the parameters and the inputs are not the machine's to reset (log 21). It is no MSR, so it opens no window of 70
R167, and no Synchronize, so it closes none. -/
def warmReset (d : ResetDraw) (s : State) : State :=
  { s with
    el := s.cfg.resetEL
    pc := s.cfg.resetPC
    x := d.x
    tcr2El1 := warmResetValue s.cfg d.u
    tcr2El2 := d.tcr2El2
    outstanding := []
    cachedEff := rememberAll s.effMayHold s.cachedEff }

/-- What a move does of itself (log 6). -/
def applyMove (m : Move) (s : State) : Result :=
  match m with
  | .execute => executeNow s
  | .executeLate => executeLate s
  | .perform n => .next (performOldest n s)
  | .synchronize => .next (synchronize s)
  | .setInputs n => .next (setInputs n s)
  | .agentStore a v => .next (agentStore a v s)
  | .dropCached => .next (dropCached s)
  | .warmReset d => .next (warmReset d s)

/-- Whether the instruction at pc is an access of R68, which an outstanding access need not precede. -/
def nextMayOvertake (s : State) : Bool :=
  match fetch s with
  | .ok i => lateAllowed i s
  | .error _ => false

/-- The effects that are outstanding happen, in program order, unless the next instruction is an access of R68: an effect is late
only against such accesses, and every other instruction follows it (20_memory.md R69, log 19). -/
def settleBeforeNext (s : State) : State :=
  if nextMayOvertake s then s else performAll s

/-- The same after a move that answers a next state. -/
def settled : Result → Result
  | .next s => .next (settleBeforeNext s)
  | .fault r => .fault r
  | .refused r => .refused r

/-- One move, whole. -/
def takeMove (m : Move) (s : State) : Result :=
  settled (applyMove m s)

end Sys2Proof.Machine
end

