-- ==== Sys2Proof/Machine/Step.lean ====
section
/-! DEFINITION. One step: the next agent of the schedule moves, and the PE when the schedule is empty (log 6). -/

namespace Sys2Proof.Machine

/-- One step of the machine. -/
def step (s : State) : Host.Outcome State Fault Refusal :=
  match s.schedule with
  | [] => takeMove .execute s
  | m :: rest => takeMove m { s with schedule := rest }

/-- `s` with the instruction whose bits are `w` (of which `nbits` are given, the rest 0) placed in the program text at pc, and
the PE next in the schedule (log 8). -/
def State.withFetchWord (s : State) (nbits w : Nat) : State :=
  s.placeNext nbits w

end Sys2Proof.Machine
end

