-- ==== Sys2Proof/Machine/Run.lean ====
section
/-! DEFINITION. A run as 70_reset_and_hazards.md R172 gives it: n words at ResetPC; it ends normally when pc reaches
ResetPC + 4n, and abnormally at the first fault or refusal. DESIGN CHOICE (log 34; the spec is silent): the final state holds
the effects of all accesses executed; those still outstanding when the run ends happen then, in program order. -/

namespace Sys2Proof.Machine

/-- How a run ended. -/
inductive RunEnd where
  | normal (s : State)
  /-- The state is the one before the instruction (60_exceptions.md R139). -/
  | fault (s : State) (r : Fault)
  | refused (s : State) (r : Refusal)
  /-- The bound on the number of steps was reached first. -/
  | unfinished (s : State)
deriving DecidableEq, Repr

/-- `k` steps, ending at the first fault or refusal. -/
def runSteps : Nat → State → Host.Outcome State Fault Refusal
  | 0, s => .next s
  | k + 1, s =>
    match step s with
    | .next s' => runSteps k s'
    | .fault r => .fault r
    | .refused r => .refused r

/-- The words of a program at ResetPC, ResetPC + 4, and so on. -/
def State.loadProgram (s : State) (ws : List InstrWord) : State :=
  { s with text := placeWords s.text s.cfg.resetPC ws }

/-- The first address after a program of `n` words. -/
def endOfProgram (c : Config) (n : Nat) : Word :=
  c.resetPC + BitVec.ofNat 64 (4 * n)

/-- At most `fuel` steps, ending when pc reaches `last`; the final state has nothing outstanding (log 34). -/
def runTo (last : Word) : Nat → State → RunEnd
  | 0, s => if s.pc = last then .normal (performAll s) else .unfinished s
  | fuel + 1, s =>
    if s.pc = last then .normal (performAll s)
    else match step s with
      | .next s' => runTo last fuel s'
      | .fault r => .fault (performAll s) r
      | .refused r => .refused (performAll s) r

end Sys2Proof.Machine
end

