-- ==== Sys2Proof/Machine/Tables.lean ====
section
/-! DEFINITION. The three decision tables of the spec, row by row (40 R103, 41 R113, 42 R123): a second description of the
chains, "read top to bottom; the first row whose condition holds gives the outcome". -/

namespace Sys2Proof.Machine

/-- One row: its condition, the level included, and its outcome. -/
structure TableRow where
  holds : Bool
  outcome : Verdict
deriving DecidableEq, Repr

/-- The outcome of the first row whose condition holds. -/
def firstRow : List TableRow → Option Verdict
  | [] => none
  | r :: rs => if r.holds then some r.outcome else firstRow rs

/-- `S0` of the tables. -/
def tableS0 (s : State) : Bool :=
  s.cfg.haveEL3 && !s.inputs.scrTCR2En

/-- R103: rows 1 to 16, with `T` and `G` as its text defines them for MRS and for MSR. -/
def tableTcr2El1 (s : State) (T G : Bool) : List TableRow :=
  [{ holds := !(s.cfg.featTCR2 && s.cfg.featAA64), outcome := .undefined },
   { holds := s.el == .el0, outcome := .undefined },
   { holds := s.el == .el1 && (tableS0 s && s.inputs.el3SDDUndefPriority), outcome := .undefined },
   { holds := s.el == .el1 && (s.inputs.el2Enabled && T), outcome := .trapEl2 },
   { holds := s.el == .el1 &&
       (s.inputs.el2Enabled && s.cfg.featFGT && (!s.cfg.haveEL3 || s.inputs.scrFGTEn) && G),
     outcome := .trapEl2 },
   { holds := s.el == .el1 && (s.inputs.el2Enabled && (!s.inputs.isHCRXEL2Enabled || !s.inputs.hcrxTCR2En)),
     outcome := .trapEl2 },
   { holds := s.el == .el1 && (tableS0 s && s.inputs.el3SDDUndef), outcome := .undefined },
   { holds := s.el == .el1 && tableS0 s, outcome := .trapEl3 },
   { holds := s.el == .el1 && s.inputs.nvx == 0b111#3, outcome := .go .nvMem },
   { holds := s.el == .el1, outcome := .go .tcr2El1 },
   { holds := s.el == .el2 && (tableS0 s && s.inputs.el3SDDUndefPriority), outcome := .undefined },
   { holds := s.el == .el2 && (tableS0 s && s.inputs.el3SDDUndef), outcome := .undefined },
   { holds := s.el == .el2 && tableS0 s, outcome := .trapEl3 },
   { holds := s.el == .el2 && s.inputs.el2IsInHost, outcome := .go .tcr2El2 },
   { holds := s.el == .el2, outcome := .go .tcr2El1 },
   { holds := s.el == .el3, outcome := .go .tcr2El1 }]

/-- R113: rows 0 to 12. -/
def tableTcr2El12 (s : State) : List TableRow :=
  [{ holds := !s.cfg.featVHE, outcome := .undefined },
   { holds := !(s.cfg.featTCR2 && s.cfg.featAA64), outcome := .undefined },
   { holds := s.el == .el0, outcome := .undefined },
   { holds := s.el == .el1 && s.inputs.nvx == 0b101#3, outcome := .go .nvMem },
   { holds := s.el == .el1 && s.inputs.nvx.extractLsb' 0 1 == 1#1, outcome := .trapEl2 },
   { holds := s.el == .el1, outcome := .undefined },
   { holds := s.el == .el2 && !s.inputs.el2IsInHost, outcome := .undefined },
   { holds := s.el == .el2 && (tableS0 s && s.inputs.el3SDDUndefPriority), outcome := .undefined },
   { holds := s.el == .el2 && (tableS0 s && s.inputs.el3SDDUndef), outcome := .undefined },
   { holds := s.el == .el2 && tableS0 s, outcome := .trapEl3 },
   { holds := s.el == .el2, outcome := .go .tcr2El1 },
   { holds := s.el == .el3 && s.inputs.el2IsInHost, outcome := .go .tcr2El1 },
   { holds := s.el == .el3, outcome := .undefined }]

/-- R123: rows 0 to 16, with `T` and `N` as its text defines them for MRS and for MSR. -/
def tableTcr2Alias (s : State) (T N : Bool) : List TableRow :=
  [{ holds := !s.cfg.featSRMASK, outcome := .undefined },
   { holds := !(s.cfg.featTCR2 && s.cfg.featAA64), outcome := .undefined },
   { holds := s.el == .el0, outcome := .undefined },
   { holds := s.el == .el1 && (tableS0 s && s.inputs.el3SDDUndefPriority), outcome := .undefined },
   { holds := s.el == .el1 && (s.inputs.el2Enabled && T), outcome := .trapEl2 },
   { holds := s.el == .el1 &&
       (s.inputs.el2Enabled && s.cfg.featFGT2 && ((s.cfg.haveEL3 && !s.inputs.scrFGTEn2) || !N)),
     outcome := .trapEl2 },
   { holds := s.el == .el1 && (s.inputs.el2Enabled && (!s.inputs.isHCRXEL2Enabled || !s.inputs.hcrxTCR2En)),
     outcome := .trapEl2 },
   { holds := s.el == .el1 && (tableS0 s && s.inputs.el3SDDUndef), outcome := .undefined },
   { holds := s.el == .el1 && tableS0 s, outcome := .trapEl3 },
   { holds := s.el == .el1 && s.inputs.nvx == 0b111#3, outcome := .go .nvMem },
   { holds := s.el == .el1, outcome := .go .tcr2El1 },
   { holds := s.el == .el2 && (tableS0 s && s.inputs.el3SDDUndefPriority), outcome := .undefined },
   { holds := s.el == .el2 && (tableS0 s && s.inputs.el3SDDUndef), outcome := .undefined },
   { holds := s.el == .el2 && tableS0 s, outcome := .trapEl3 },
   { holds := s.el == .el2 && s.inputs.el2IsInHost, outcome := .go .tcr2El2 },
   { holds := s.el == .el2, outcome := .go .tcr2El1 },
   { holds := s.el == .el3, outcome := .go .tcr2El1 }]

end Sys2Proof.Machine
end

