-- ==== Sys2Proof/Machine/Translation.lean ====
section
/-! DEFINITION. What the register gives to address translation: which effective value a translation may use (10_state.md R43,
R46; 70_reset_and_hazards.md R167, R168), and what each field switches, as far as its text says (10_state.md R24 to R38;
20_memory.md R72). The translation itself is outside the spec (00_scope.md R5); no instruction reads anything of this file. -/

namespace Sys2Proof.Machine

/-- Whether a translation may see the value `b` of field `f` now. It may see the effective value, computed from the inputs of
this instant (70 R168). From the execution of an MSR that changes the register until Synchronize, whenever the MSR's effect
happens (20_memory.md R68), it may also see the effective value that MSR found and the one it leaves, whatever the inputs have
become (R167, which R168 exempts), and those the old and the new stored value have under the inputs of this instant (DEDUCED, log
20: "old" and "new" read at the time of use; safe, it allows more). For a field a TLB may cache it may see any effective value
since cached copies were last removed (10_state.md R46). -/
def mayUse (s : State) (f : Field) (b : Bool) : Bool :=
  ((s.tcr2El1 :: s.unsynced).any fun w => (effective s.cfg s.inputs w).get f == b) ||
    (s.unsyncedEff.any fun e => e.get f == b) ||
    (f.tlbCacheable && s.cachedEff.any fun e => e.get f == b)

/-- The two translation table base registers the fields name. -/
inductive Ttbr where
  | ttbr0
  | ttbr1
deriving DecidableEq, Repr

/-- How a translation's globality is found. What the nG bit itself means is in no source. -/
inductive Globality where
  /-- "treated as non-global regardless of the value of the nG bit". -/
  | forcedNonGlobal
  /-- The fields have "no effect on the interpretation of the nG bit". -/
  | byNgBit
deriving DecidableEq, Repr

/-- The facts about one translation that FNGNA0 and FNGNA1 depend on (10_state.md R24, R25). -/
structure TranslationFacts where
  /-- The translation is for the EL1&0 translation regime. -/
  regimeEl10 : Bool
  /-- Stage 1 and stage 2 translation are enabled. -/
  bothStages : Bool
  /-- Protection is enabled. -/
  protection : Bool
  /-- The final stage 1 translation using the descriptor has the Assured Translation property. -/
  assured : Bool
deriving DecidableEq, Repr

/-- FNG1 or FNG0 for a base register (10_state.md R26, R27). -/
def fngFor (e : FieldBits) : Ttbr → Bool
  | .ttbr0 => e.fng0
  | .ttbr1 => e.fng1

/-- FNGNA1 or FNGNA0 for a base register (10_state.md R24, R25). -/
def fngnaFor (e : FieldBits) : Ttbr → Bool
  | .ttbr0 => e.fngna0
  | .ttbr1 => e.fngna1

/-- Whether translations using a base register are treated as non-global whatever their nG bit (10_state.md R24 to R27; that
the two fields of one base register combine by "or" is DEDUCED, log 32). -/
def globality (e : FieldBits) (b : Ttbr) (f : TranslationFacts) : Globality :=
  if fngFor e b || (fngnaFor e b && f.regimeEl10 && f.bothStages && f.protection && !f.assured) then .forcedNonGlobal
  else .byNgBit

/-- "Use of two ASIDs is enabled." (10_state.md R28). -/
def twoAsids (e : FieldBits) : Bool := e.a2

/-- DisCH1 or DisCH0 for a base register (10_state.md R29, R30). -/
def disCHFor (e : FieldBits) : Ttbr → Bool
  | .ttbr0 => e.disCH0
  | .ttbr1 => e.disCH1

/-- "bit[52] of each stage 1 translation table entry is the Protected bit" (10_state.md R38). -/
def bit52IsProtected (e : FieldBits) : Bool := e.pnch

/-- The two uses of bit[52] of a stage 1 translation table entry that the page names. -/
inductive Bit52Use where
  | protectedBit
  | contiguousBit
deriving DecidableEq, Repr

/-- "If bit[52] is used as the Protected bit, it is not used as the Contiguous bit"; it is the Contiguous bit "when it is not the
Protected bit" (10_state.md R38; 20_memory.md R72). -/
def bit52Use (e : FieldBits) : Bit52Use :=
  if bit52IsProtected e then .protectedBit else .contiguousBit

/-- The Protected bit of an entry whose bit[52] is `bit52`; `none` where the entry has none (10_state.md R38). -/
def protectedBit (e : FieldBits) (bit52 : Bool) : Option Bool :=
  match bit52Use e with
  | .protectedBit => some bit52
  | .contiguousBit => none

/-- The Contiguous bit, as translation treats it, of a Block or Page descriptor whose bit[52] is `bit52`; `none` where bit[52] is
the Protected bit (10_state.md R38). In the Start Table it is treated as 0 when DisCH is 1 (R29, R30); elsewhere these fields do
not affect it (DEDUCED, log 32). -/
def contiguousBit (e : FieldBits) (b : Ttbr) (inStartTable bit52 : Bool) : Option Bool :=
  match bit52Use e with
  | .protectedBit => none
  | .contiguousBit => some (if inStartTable && disCHFor e b then false else bit52)

/-- "Hardware managed Access Flag for Table descriptors is enabled." (10_state.md R31). -/
def tableAccessFlagManaged (e : FieldBits) : Bool := e.haft

/-- Whether write accesses generated by RCWS at EL1&0 have the Reduced Coherence property, when the effective PTTWI they act on
is `pttwi` (10_state.md R32). With it 0 they do not; with it 1 they do "if HCRX_EL2.PTTWI is 1". `none`: EL2 is absent or
HCRX_EL2 not enabled, and the page does not say (93_implementation_defined.md I25, log 30). -/
def rcwsReducedCoherence (s : State) (pttwi : Bool) : Option Bool :=
  if !pttwi then some false
  else if s.cfg.haveEL2 && s.inputs.isHCRXEL2Enabled then some s.inputs.hcrxPTTWI
  else none

/-- Whether an RCWS write may now act as `rcwsReducedCoherence` says `r`. DESIGN CHOICE (log 30; safe, it allows more): 10_state.md
R46 speaks of a translation, and whether an RCWS write may act on an older PTTWI no rule says; here it may act on every value a
translation may. -/
def rcwsMayHave (s : State) (r : Option Bool) : Bool :=
  [false, true].any fun b => mayUse s .pttwi b && (rcwsReducedCoherence s b == r)

/-- The two translation processes D128 selects between (10_state.md R33). -/
inductive TranslationSystem where
  | vmsav8_64
  | vmsav9_128
deriving DecidableEq, Repr

/-- The translation process (10_state.md R33). -/
def translationSystem (e : FieldBits) : TranslationSystem :=
  if e.d128 then .vmsav9_128 else .vmsav8_64

/-- "Attribute Indexing Extension Enabled." (10_state.md R34). -/
def attributeIndexing (e : FieldBits) : Bool := e.aie

/-- The two kinds of access POE and E0POE tell apart (10_state.md R35, R36). -/
inductive Privilege where
  | el1
  | el0
deriving DecidableEq, Repr

/-- Whether the permission overlay is enabled in stage 1 of the EL1&0 regime (10_state.md R35, R36). -/
def permissionOverlay (e : FieldBits) : Privilege → Bool
  | .el1 => e.poe
  | .el0 => e.e0poe

/-- The two permission models PIE selects between (10_state.md R37). -/
inductive PermissionModel where
  | direct
  | indirect
deriving DecidableEq, Repr

/-- The permission model (10_state.md R37). -/
def permissionModel (e : FieldBits) : PermissionModel :=
  if e.pie then .indirect else .direct

end Sys2Proof.Machine
end

