-- ==== Sys2Proof/Safety.lean ====
section
/-! DEFINITION. The terms the claims use: the invariant every step keeps, the consistency of the inputs that a claim may take as
a premise (00_scope.md R8), what a completed access changes and leaves unchanged, and when an access meets no trap. -/

namespace Sys2Proof.Safety

open Sys2Proof.Machine

/-- "The invariant `TCR2_EL1 & ~StorageMask == 0`" for a stored value (10_state.md R45). -/
def withinStorage (c : Config) (w : Word) : Prop :=
  w &&& ~~~storageMask c = 0

/-- An outstanding access is by one of the two names of R68, and what it will store fits the register. -/
def accessInStorage (c : Config) (d : OutstandingAccess) : Prop :=
  crossNamed d.name = true ∧ ∀ v, d.effect = .write v → withinStorage c v

/-- The invariant of the machine. -/
structure Inv (s : State) : Prop where
  /-- The parameters are a set the spec allows. -/
  cfg : s.cfg.wf = true
  /-- R45: the stored value lies in StorageMask. -/
  stored : withinStorage s.cfg s.tcr2El1
  /-- Memory has its canonical form. -/
  mem : s.mem.wf = true
  /-- The program text has its canonical form. -/
  text : s.text.wf = true
  /-- pc is a multiple of 4. -/
  pc : s.pcAligned = true
  /-- PSTATE.EL is an implemented level (R8). -/
  el : s.cfg.implementsEL s.el = true
  /-- Every outstanding access is one R68 speaks of. -/
  outstanding : ∀ d ∈ s.outstanding, accessInStorage s.cfg d
  /-- An effect is outstanding only before an access of R68 (20_memory.md R69). -/
  late : s.outstanding ≠ [] → nextMayOvertake s = true
  /-- Every stored value an MSR found or left lies in StorageMask. -/
  unsynced : ∀ w ∈ s.unsynced, withinStorage s.cfg w
  /-- The three histories hold each value once. -/
  once : s.unsynced.Nodup ∧ s.unsyncedEff.Nodup ∧ s.cachedEff.Nodup

/-- The consistency of parameters and inputs a claim may assume, and must state when it does (00_scope.md R8, D27). -/
structure Consistent (s : State) : Prop where
  /-- (a) without EL2 nothing of EL2 is in force. -/
  noEl2 : s.cfg.haveEL2 = false →
    s.inputs.el2Enabled = false ∧ s.inputs.el2IsInHost = false ∧ s.inputs.nvx = 0b000#3 ∧ s.el ≠ .el2
  /-- (b) without EL3 the current level is not EL3. -/
  noEl3 : s.cfg.haveEL3 = false → s.el ≠ .el3
  /-- (c) without FEAT_VHE EL2 is not in host. -/
  noVhe : s.cfg.featVHE = false → s.inputs.el2IsInHost = false

/-- `x[t]` holds `v` (the zero register still reads 0) and every other register is as before. -/
def TakesValue (s s' : State) (t : Nat) (v : Word) : Prop :=
  (∀ u, u ≠ t → s'.readX u = s.readX u) ∧ s'.readX t = if t < 31 then v else 0

/-- A completed MRS from a register: `x[t]` takes `v`; every other field of the state and every byte of memory is as before, and
pc has moved on by 4. -/
def ReadsInto (s s' : State) (t : Nat) (v : Word) : Prop :=
  s' = { s with x := s'.x, pc := s.pc + 4 } ∧ TakesValue s s' t v

/-- A completed write of TCR2_EL1: the stored value is `v`; every register, TCR2_EL2, every byte of memory and every other
field is as before but for pc and the three histories of the model. Where `v` changes the register, these gain the old and the
new stored value and the effective values of the two; what a TLB may hold gains the effective values in force until now. -/
def WritesTcr2El1 (s s' : State) (v : Word) : Prop :=
  s' = { s with
    tcr2El1 := v, pc := s.pc + 4, unsynced := s'.unsynced, unsyncedEff := s'.unsyncedEff, cachedEff := s'.cachedEff } ∧
    (∀ w, w ∈ s'.unsynced ↔ (v ≠ s.tcr2El1 ∧ (w = s.tcr2El1 ∨ w = v)) ∨ w ∈ s.unsynced) ∧
    (∀ e, e ∈ s'.unsyncedEff ↔ (v ≠ s.tcr2El1 ∧ (e = s.eff ∨ e = s'.eff)) ∨ e ∈ s.unsyncedEff) ∧
    (∀ e, e ∈ s'.cachedEff ↔ e = s.eff ∨ e ∈ s.cachedEff)

/-- A completed write of TCR2_EL2: that cell holds `v` and everything else but pc is as before. -/
def WritesTcr2El2 (s s' : State) (v : Word) : Prop :=
  s' = { s with tcr2El2 := v, pc := s.pc + 4 }

/-- The eight byte addresses of the NVMem access. -/
def nvMemByte (s : State) (k : Nat) : Nat :=
  byteAddr (s.inputs.nvMemBase + 0x270) k

/-- The record of NVMem accesses with one more (20_memory.md R64, R70(b)). -/
def eventsWith (s : State) (k : NvMemKind) (v : Word) : List NvMemEvent :=
  s.nvMemEvents ++ [{ kind := k, addr := s.inputs.nvMemBase + 0x270, value := v }]

/-- A completed MRS from NVMem: `x[t]` takes `v`, which is the eight bytes at NVMemBase + 0x270 in the implementation's byte
order; the access is recorded, and everything else but pc is as before. -/
def ReadsNvMem (s s' : State) (t : Nat) (v : Word) : Prop :=
  s' = { s with x := s'.x, pc := s.pc + 4, nvMemEvents := eventsWith s .read v } ∧ TakesValue s s' t v ∧
    ∀ k, k < 8 → valueByte v (if s.cfg.nvMemBigEndian then 7 - k else k) = s.mem.readByte (nvMemByte s k)

/-- A completed NVMem write: the eight bytes at NVMemBase + 0x270 hold `v` whole in the implementation's byte order, every
other byte of memory reads as before, the access is recorded, and everything else but pc is as before. -/
def StoresNvMem (s s' : State) (v : Word) : Prop :=
  s' = { s with mem := s'.mem, pc := s.pc + 4, nvMemEvents := eventsWith s .write v } ∧
    (∀ k, k < 8 →
      s'.mem.readByte (nvMemByte s k) = valueByte v (if s.cfg.nvMemBigEndian then 7 - k else k)) ∧
    (∀ a, (∀ k, k < 8 → a ≠ nvMemByte s k) → s'.mem.readByte a = s.mem.readByte a)

/-- The NVMem access has its effect: the base is a multiple of 8 and all eight bytes are admitted (20_memory.md R63, R65). -/
def NvMemReady (s : State) : Prop :=
  s.inputs.nvMemBase.extractLsb' 0 3 = 0#3 ∧
    ∀ k, k < 8 → ∃ r ∈ s.cfg.admitted, r.base ≤ nvMemByte s k ∧ nvMemByte s k < r.base + r.size

/-- None of the eight bytes holds program text (20_memory.md R73). -/
def NvMemClearOfText (s : State) : Prop :=
  ∀ k, k < 8 → s.text.holds (nvMemByte s k) = false

/-- No control of EL2 or EL3 stops an EL1 access by the names TCR2_EL1 and TCR2ALIAS_EL1: `vmTrap` is TRVM or TVM, `fineTrap`
the fine-grained test (60_exceptions.md R136, R141). -/
def ClearAtEl1 (s : State) (vmTrap fineTrap : Bool) : Prop :=
  (s.inputs.el2Enabled = true →
    vmTrap = false ∧ fineTrap = false ∧ s.inputs.isHCRXEL2Enabled = true ∧ s.inputs.hcrxTCR2En = true) ∧
  (s.cfg.haveEL3 = true → s.inputs.scrTCR2En = true)

/-- `SCR_EL3.TCR2En` stops no EL2 access. -/
def ClearAtEl2 (s : State) : Prop :=
  s.cfg.haveEL3 = true → s.inputs.scrTCR2En = true

/-- Where an access by the name TCR2_EL1 or TCR2ALIAS_EL1 reaches the register TCR2_EL1 (40 R103 rows 10, 15, 16). -/
def ReachesRegister (s : State) (vmTrap fineTrap : Bool) : Prop :=
  (s.el = .el1 ∧ ClearAtEl1 s vmTrap fineTrap ∧ s.inputs.nvx ≠ 0b111#3) ∨
  (s.el = .el2 ∧ ClearAtEl2 s ∧ s.inputs.el2IsInHost = false) ∨ s.el = .el3

/-- Where an access by the name TCR2_EL12 reaches the register (41 R113 rows 10, 11). -/
def ReachesRegisterEl12 (s : State) : Prop :=
  s.inputs.el2IsInHost = true ∧ ((s.el = .el2 ∧ ClearAtEl2 s) ∨ s.el = .el3)

/-- The program text at address `a` holds the four bytes of this instruction's word (30_encoding.md R82). -/
def TextAt (s : State) (a : Word) (i : Instr) : Prop :=
  ∀ k, k < 4 → lookupCell s.text (byteAddr a k) = some (wordByte (encode i) k)

/-- The register condition and the accessor condition of an instruction hold (30_encoding.md R85, R86). -/
def Implemented (c : Config) (i : Instr) : Prop :=
  c.featTCR2 = true ∧ c.featAA64 = true ∧ (i.accessor = .tcr2El12 → c.featVHE = true) ∧
    (i.accessor = .tcr2AliasEl1 → c.featSRMASK = true)

/-- HCR_EL2.TRVM for an MRS, HCR_EL2.TVM for an MSR. -/
def vmTrapBit (i : Instr) (s : State) : Bool :=
  match i.direction with
  | .read => s.inputs.hcrTRVM
  | .write => s.inputs.hcrTVM

/-- The fine-grained trap test of an instruction, `EL2Enabled()` aside: positive polarity for the name TCR2_EL1, negative for
TCR2ALIAS_EL1, none for TCR2_EL12 (40 R101, R102; 42 R121, R122). -/
def fineTrapTest (i : Instr) (s : State) : Bool :=
  match i.accessor, i.direction with
  | .tcr2El1, .read => s.cfg.featFGT && (!s.cfg.haveEL3 || s.inputs.scrFGTEn) && s.inputs.hfgrtrTcrEl1
  | .tcr2El1, .write => s.cfg.featFGT && (!s.cfg.haveEL3 || s.inputs.scrFGTEn) && s.inputs.hfgwtrTcrEl1
  | .tcr2AliasEl1, .read => s.cfg.featFGT2 && ((s.cfg.haveEL3 && !s.inputs.scrFGTEn2) || !s.inputs.hfgrtr2NAlias)
  | .tcr2AliasEl1, .write => s.cfg.featFGT2 && ((s.cfg.haveEL3 && !s.inputs.scrFGTEn2) || !s.inputs.hfgwtr2NAlias)
  | .tcr2El12, _ => false

/-- The read-only mask under which an MSR merges its operand into TCR2_EL1: ROMask() for the name TCR2_EL1, for TCR2ALIAS_EL1
exactly when AliasWriteMasked, and 0 for TCR2_EL12, which reaches the register at EL2 and EL3 only (10_state.md R45). -/
def readOnlyFor (i : Instr) (s : State) : Word :=
  match i.accessor with
  | .tcr2El1 => roMask s
  | .tcr2El12 => 0
  | .tcr2AliasEl1 => if s.cfg.aliasWriteMasked then roMask s else 0

/-- The value an MSR leaves in TCR2_EL1 (10_state.md R45). -/
def mergedValue (i : Instr) (s : State) : Word :=
  ((s.tcr2El1 &&& readOnlyFor i s) ||| (s.readX i.reg &&& ~~~readOnlyFor i s)) &&& storageMask s.cfg

/-- `HaveEL(EL3) && SCR_EL3.TCR2En == '0'`. -/
def ScrDisabled (s : State) : Prop :=
  s.cfg.haveEL3 = true ∧ s.inputs.scrTCR2En = false

/-- One of the three EL2 controls on the names TCR2_EL1 and TCR2ALIAS_EL1 is set against this access (60_exceptions.md
R132). -/
def El2Control (i : Instr) (s : State) : Prop :=
  s.inputs.el2Enabled = true ∧
    (vmTrapBit i s = true ∨ fineTrapTest i s = true ∨
      s.inputs.isHCRXEL2Enabled = false ∨ s.inputs.hcrxTCR2En = false)

/-- The arm whose first tests are those of `SCR_EL3.TCR2En`: EL1 and EL2 for the names TCR2_EL1 and TCR2ALIAS_EL1, EL2 in host
for TCR2_EL12 (60_exceptions.md R131, R132). -/
def ScrTestedArm (i : Instr) (s : State) : Prop :=
  (i.accessor ≠ .tcr2El12 ∧ (s.el = .el1 ∨ s.el = .el2)) ∨
    (i.accessor = .tcr2El12 ∧ s.el = .el2 ∧ s.inputs.el2IsInHost = true)

/-- An EL2 trap control comes before the EL3 one at EL1 (60_exceptions.md R136). -/
def El2ControlFirst (i : Instr) (s : State) : Prop :=
  s.el = .el1 ∧ El2Control i s

/-- The access is directed to `NVMem(0x270)` (20_memory.md R60; 60_exceptions.md R141). -/
def DirectedToNvMem (i : Instr) (s : State) : Prop :=
  Implemented s.cfg i ∧ s.el = .el1 ∧
    ((i.accessor = .tcr2El12 ∧ s.inputs.nvx = 0b101#3) ∨
      (i.accessor ≠ .tcr2El12 ∧ s.inputs.nvx = 0b111#3 ∧ ¬ El2Control i s ∧ ¬ ScrDisabled s))

/-- The same outcome with other inputs in the next state. -/
def withInputs (n : Inputs) : Result → Result
  | .next s => .next { s with inputs := n }
  | .fault r => .fault r
  | .refused r => .refused r

/-- The PE is at EL3 where R68 applies: the register exists, FEAT_VHE is implemented, EL2 is in host, and the Effective value
of HCR_EL2.E2H is 1. -/
structure AtEl3Unordered (s : State) : Prop where
  el : s.el = .el3
  e2h : s.inputs.hcrE2H = true
  host : s.inputs.el2IsInHost = true
  vhe : s.cfg.featVHE = true
  present : s.cfg.registerPresent = true
  aligned : s.pcAligned = true
  empty : s.outstanding = []

/-- Whether two accesses are a pair R68 leaves unordered: one by the name TCR2_EL1, the other by TCR2_EL12. -/
def crossPair (a b : Accessor) : Bool :=
  crossNamed a && crossNamed b && a != b

/-- The MRS and the MSR of an accessor name. -/
def mrs (a : Accessor) (t : Nat) : Instr := makeInstr a .read t

def msr (a : Accessor) (t : Nat) : Instr := makeInstr a .write t

/-- Two consecutive instructions at pc. -/
def Pair (s : State) (a b : Instr) : Prop :=
  TextAt s s.pc a ∧ TextAt s (s.pc + 4) b

end Sys2Proof.Safety
end

