-- ==== Sys2Proof/Certificates/Slice0/Obligations.lean ====
section
/-! DEFINITION. The statements for the provers. Each docstring names the rule or the log entry the statement rests on. -/

open Sys2Proof Sys2Proof.Machine Sys2Proof.Safety

/-! ### Encoding and decoding -/

/-- Decode and encode agree on every well-formed instruction, whatever follows it in memory (30_encoding.md R82, R84, R90; the
word layout is PRESUMED, log 13). -/
def Obligations.EncodedInstructionDecodes : Prop :=
  ∀ (i : Instr) (rest : List Byte), i.wf = true → decodeBytes (encodeBytes i ++ rest) = .ok (i, rest)

/-- A word the decoder accepts is the encoding of what it decodes to, which is well formed (30_encoding.md R84, R87). -/
def Obligations.DecodedWordIsTheEncoding : Prop :=
  ∀ (w : InstrWord) (i : Instr), decodeWord w = .ok i → i.wf = true ∧ encode i = w

/-- The mask and match decoder reads the fields of R82 and no others: a word decodes to an instruction exactly when its fixed
bits, L, o0, op1, CRn, CRm, op2 are that row's and Rt is its operand. -/
def Obligations.DecoderReadsTheFields : Prop :=
  ∀ (w : InstrWord) (a : Accessor) (d : Direction) (t : Nat),
    decodeWord w = .ok (makeInstr a d t) ↔
      w.extractLsb' 22 10 = 0b1101010100#10 ∧
      w.extractLsb' 21 1 = directionBit d ∧
      w.extractLsb' 20 1 = 1#1 ∧
      w.extractLsb' 19 1 = (sysRegEncoding a).op0.extractLsb' 0 1 ∧
      w.extractLsb' 16 3 = (sysRegEncoding a).op1 ∧
      w.extractLsb' 12 4 = (sysRegEncoding a).crn ∧
      w.extractLsb' 8 4 = (sysRegEncoding a).crm ∧
      w.extractLsb' 5 3 = (sysRegEncoding a).op2 ∧
      (w.extractLsb' 0 5).toNat = t

/-- The words of the spec's decode vectors (95_test_vectors.md, section 2), written out bit by bit. -/
def Obligations.SampleWordsDecode : Prop :=
  decodeWord 0b11010101001110000010000001100101#32 = .ok (.mrsTcr2El1 5) ∧
  decodeWord 0b11010101000110000010000001111111#32 = .ok (.msrTcr2El1 31) ∧
  decodeWord 0b11010101001111010010000001100001#32 = .ok (.mrsTcr2El12 1) ∧
  decodeWord 0b11010101000111010010000001100010#32 = .ok (.msrTcr2El12 2) ∧
  decodeWord 0b11010101001110000010011111100100#32 = .ok (.mrsTcr2AliasEl1 4) ∧
  decodeWord 0b11010101000110000010011111100011#32 = .ok (.msrTcr2AliasEl1 3) ∧
  decodeWord 0b11010101001110000010000001000000#32 = .error (.notInThisSpec 0xD5382040)

/-- A word that matches none of the six rows is refused by name, never Undefined and never a no-operation (30_encoding.md
R87). -/
def Obligations.OtherWordsAreRefused : Prop :=
  ∀ (s : State) (w : InstrWord), s.schedule = [] → s.pcAligned = true →
    (∀ k, k < 4 → lookupCell s.text (byteAddr s.pc k) = some (wordByte w k)) →
    (∀ (a : Accessor) (d : Direction), w &&& 0xFFFFFFE0 ≠ matchWord a d) →
    step s = .refused (.notInThisSpec w)

/-- A fetch from a pc that is not a multiple of 4, or where the program text does not hold four bytes, is refused
(30_encoding.md R82; 93_implementation_defined.md I6). -/
def Obligations.FetchStopsByName : Prop :=
  ∀ s : State, s.schedule = [] →
    (s.pcAligned = false → step s = .refused (.misalignedFetch s.pc)) ∧
    (s.pcAligned = true → (∃ k, k < 4 ∧ s.text.holds (byteAddr s.pc k) = false) →
      step s = .refused (.fetchOutsideText s.pc))

/-- A step runs the decoded instruction: with the PE next to move and a well-formed instruction's word at pc, step is exec of it
at the state in which the outstanding accesses it must follow have had their effects, followed by the effects that may not
outlive it (20_memory.md R69, log 19); with none outstanding, it is exec at the state itself. -/
def Obligations.StepRunsTheDecodedInstruction : Prop :=
  ∀ (s : State) (i : Instr), i.wf = true → s.pcAligned = true → TextAt s s.pc i →
    (s.schedule = [] → step s = settled (exec i (settle i s))) ∧
    (∀ rest, s.schedule = .execute :: rest →
      step s = settled (exec i (settle i { s with schedule := rest }))) ∧
    (s.schedule = [] → s.outstanding = [] → step s = exec i s)

/-- withFetchWord makes the very next step run the word's instruction (log 8). -/
def Obligations.PlacedWordRunsNext : Prop :=
  ∀ (s : State) (w : Nat) (i : Instr), w < 2 ^ 32 → s.pcAligned = true → s.outstanding = [] →
    decodeWord (BitVec.ofNat 32 w) = .ok i →
    step (s.withFetchWord 32 w) = exec i { s with text := placeWord s.text s.pc (BitVec.ofNat 32 w) }

/-! ### Reset -/

/-- `State.reset` meets the invariant. -/
def Obligations.ResetMeetsTheInvariant : Prop :=
  Inv State.reset

/-- Warm reset, bit by bit and for every draw (70 R161, R162, R163): a named field of class Z is 0 when the highest
implemented level is EL1; every other named field takes the draw's bit; any other bit takes it where it is storage and is 0
where it is hardwired or the register is absent (log 23). PSTATE.EL and pc take the parameters, the registers the draws; memory, text and
parameters are not reset. That the inputs and the rest of the schedule are as before, and that outstanding accesses are dropped,
is the model's DESIGN CHOICE (log 21, log 6): R163 leaves the inputs to the environment, which may set them next. -/
def Obligations.WarmResetFollowsTheDraw : Prop :=
  ∀ (s : State) (d : ResetDraw) (rest : List Move), s.schedule = .warmReset d :: rest →
    ∃ s', step s = .next s' ∧
      (∀ f : Field, f.named s.cfg = true →
        s'.tcr2El1.getLsbD f.pos =
          if f.resetClass = .z ∧ s.cfg.haveEL2 = false ∧ s.cfg.haveEL3 = false then false else d.u.getLsbD f.pos) ∧
      (∀ k, k < 64 → (∀ f : Field, f.named s.cfg = true → f.pos ≠ k) →
        s'.tcr2El1.getLsbD k =
          if s.cfg.featTHE = true ∧ s.cfg.pttwiRO0 = true ∧ k = 10 then false
          else s.cfg.registerPresent && s.cfg.res0StorageMask.getLsbD k && d.u.getLsbD k) ∧
      s'.el = s.cfg.resetEL ∧ s'.pc = s.cfg.resetPC ∧ s'.x = d.x ∧ s'.tcr2El2 = d.tcr2El2 ∧
      s'.mem = s.mem ∧ s'.text = s.text ∧ s'.cfg = s.cfg ∧
      s'.inputs = s.inputs ∧ s'.schedule = rest ∧ s'.outstanding = []

/-- The two reset classes, by bit position (70 R161): a class U bit that exists takes any value after Warm reset, on every
implementation; a class Z bit that exists is 0 whatever the draw where the highest implemented level is EL1, and takes any
value otherwise. -/
def Obligations.ResetClassesByPosition : Prop :=
  ∀ (c : Config) (k : Nat), (namedMask c).getLsbD k = true →
    (k ∈ [21, 20, 18, 17, 16, 15, 14] → ∀ b, ∃ u, (warmResetValue c u).getLsbD k = b) ∧
    (k ∈ [11, 10, 5, 4, 3, 2, 1, 0] →
      (c.highestEL = .el1 → ∀ u, (warmResetValue c u).getLsbD k = false) ∧
      (c.highestEL ≠ .el1 → ∀ b, ∃ u, (warmResetValue c u).getLsbD k = b))

/-- With neither EL2 nor EL3 implemented and the inputs consistent (00_scope.md R8), translation starts plain after Warm reset,
whatever the draw (70 R162(e)). -/
def Obligations.TranslationStartsPlain : Prop :=
  ∀ (s : State) (d : ResetDraw), s.cfg.haveEL2 = false → s.cfg.haveEL3 = false → s.inputs.el2Enabled = false →
    let e := (warmReset d s).eff
    tcr2Ignored s.cfg s.inputs = false ∧
      e.haft = false ∧ e.pttwi = false ∧ e.d128 = false ∧ e.aie = false ∧ e.poe = false ∧ e.e0poe = false ∧
      e.pie = false ∧ e.pnch = false ∧ e.disCH1 = false ∧ e.disCH0 = false

/-! ### What every step keeps -/

/-- Every step keeps the invariant: the stored register in StorageMask (10_state.md R45), memory and text canonical, pc a
multiple of 4, PSTATE.EL implemented, the outstanding accesses those of 20_memory.md R68, and none outstanding unless the next
instruction is one of them (R69; the form of the last two is the model's, log 19). -/
def Obligations.StepKeepsTheInvariant : Prop :=
  ∀ s s' : State, Inv s → step s = .next s' → Inv s'

/-- No step changes a parameter or the program text (00_scope.md R6; 20_memory.md R73), and the record of NVMem accesses only
grows, by at most one event a step, at the address of this step's access (R70(b)). -/
def Obligations.StepKeepsParametersAndText : Prop :=
  ∀ s s' : State, step s = .next s' →
    s'.cfg = s.cfg ∧ s'.text = s.text ∧
      (s'.nvMemEvents = s.nvMemEvents ∨ ∃ k v, s'.nvMemEvents = eventsWith s k v)

/-- Every write leaves the stored register in StorageMask (10_state.md R45). -/
def Obligations.MeaningsKeepTheRegisterInStorage : Prop :=
  ∀ (i : Instr) (s s' : State), withinStorage s.cfg s.tcr2El1 → exec i s = .next s' → withinStorage s'.cfg s'.tcr2El1

/-- PSTATE.EL changes at Warm reset and nowhere else (10_state.md R49; 40 R100). This rests on the premise 60_exceptions.md R135
asks a model to state, that no asynchronous exception is taken, and on exceptions being terminal (R139): both are the spec's
decisions D23 and D24, built into the model (log 10). -/
def Obligations.OnlyResetChangesTheLevel : Prop :=
  ∀ s s' : State, step s = .next s' →
    s'.el = s.el ∨ ∃ d rest, s.schedule = .warmReset d :: rest ∧ s'.el = s.cfg.resetEL

/-- The inputs change by their own move and nowhere else (10_state.md R51: "none is written by anything in this spec"). That they
keep their values until that move is the model's DESIGN CHOICE (log 6): R51 lets them differ from one step to the next. -/
def Obligations.OnlyTheirOwnersChangeTheInputs : Prop :=
  ∀ s s' : State, step s = .next s' →
    s'.inputs = s.inputs ∨ ∃ n rest, s.schedule = .setInputs n :: rest ∧ s'.inputs = n

/-! ### The six instructions: where they complete, what they leave -/

/-- `MRS <Xt>, TCR2_EL1` completes (40 R101): from the register at EL1, EL2 and EL3, from TCR2_EL2 at EL2 in host, from the
eight bytes of NVMem at EL1 under NVx = '111'. -/
def Obligations.MrsTcr2El1Completes : Prop :=
  ∀ (t : Nat) (s : State), Implemented s.cfg (.mrsTcr2El1 t) →
    (ReachesRegister s s.inputs.hcrTRVM (fineTrapTest (.mrsTcr2El1 t) s) →
      ∃ s', exec (.mrsTcr2El1 t) s = .next s' ∧ ReadsInto s s' t s.tcr2El1) ∧
    (s.el = .el2 → ClearAtEl2 s → s.inputs.el2IsInHost = true →
      ∃ s', exec (.mrsTcr2El1 t) s = .next s' ∧ ReadsInto s s' t s.tcr2El2) ∧
    (DirectedToNvMem (.mrsTcr2El1 t) s → NvMemReady s →
      ∃ s' v, exec (.mrsTcr2El1 t) s = .next s' ∧ ReadsNvMem s s' t v)

/-- `MSR TCR2_EL1, <Xt>` completes (40 R102): the register takes the merge of R45 under ROMask(), TCR2_EL2 and memory take
x[t] whole. -/
def Obligations.MsrTcr2El1Completes : Prop :=
  ∀ (t : Nat) (s : State), Implemented s.cfg (.msrTcr2El1 t) →
    (ReachesRegister s s.inputs.hcrTVM (fineTrapTest (.msrTcr2El1 t) s) →
      ∃ s', exec (.msrTcr2El1 t) s = .next s' ∧
        WritesTcr2El1 s s' (((s.tcr2El1 &&& roMask s) ||| (s.readX t &&& ~~~roMask s)) &&& storageMask s.cfg)) ∧
    (s.el = .el2 → ClearAtEl2 s → s.inputs.el2IsInHost = true →
      ∃ s', exec (.msrTcr2El1 t) s = .next s' ∧ WritesTcr2El2 s s' (s.readX t)) ∧
    (DirectedToNvMem (.msrTcr2El1 t) s → NvMemReady s → NvMemClearOfText s →
      ∃ s', exec (.msrTcr2El1 t) s = .next s' ∧ StoresNvMem s s' (s.readX t))

/-- `MRS <Xt>, TCR2_EL12` completes (41 R111): from the register in host at EL2 and EL3, from NVMem at EL1 under NVx =
'101'. -/
def Obligations.MrsTcr2El12Completes : Prop :=
  ∀ (t : Nat) (s : State), Implemented s.cfg (.mrsTcr2El12 t) →
    (ReachesRegisterEl12 s → ∃ s', exec (.mrsTcr2El12 t) s = .next s' ∧ ReadsInto s s' t s.tcr2El1) ∧
    (DirectedToNvMem (.mrsTcr2El12 t) s → NvMemReady s →
      ∃ s' v, exec (.mrsTcr2El12 t) s = .next s' ∧ ReadsNvMem s s' t v)

/-- `MSR TCR2_EL12, <Xt>` completes (41 R112): the register takes x[t] in StorageMask, with nothing masked; memory takes it
whole. -/
def Obligations.MsrTcr2El12Completes : Prop :=
  ∀ (t : Nat) (s : State), Implemented s.cfg (.msrTcr2El12 t) →
    (ReachesRegisterEl12 s →
      ∃ s', exec (.msrTcr2El12 t) s = .next s' ∧ WritesTcr2El1 s s' (s.readX t &&& storageMask s.cfg)) ∧
    (DirectedToNvMem (.msrTcr2El12 t) s → NvMemReady s → NvMemClearOfText s →
      ∃ s', exec (.msrTcr2El12 t) s = .next s' ∧ StoresNvMem s s' (s.readX t))

/-- `MRS <Xt>, TCR2ALIAS_EL1` completes (42 R121), as the name TCR2_EL1 does under its own fine-grained test. -/
def Obligations.MrsTcr2AliasEl1Completes : Prop :=
  ∀ (t : Nat) (s : State), Implemented s.cfg (.mrsTcr2AliasEl1 t) →
    (ReachesRegister s s.inputs.hcrTRVM (fineTrapTest (.mrsTcr2AliasEl1 t) s) →
      ∃ s', exec (.mrsTcr2AliasEl1 t) s = .next s' ∧ ReadsInto s s' t s.tcr2El1) ∧
    (s.el = .el2 → ClearAtEl2 s → s.inputs.el2IsInHost = true →
      ∃ s', exec (.mrsTcr2AliasEl1 t) s = .next s' ∧ ReadsInto s s' t s.tcr2El2) ∧
    (DirectedToNvMem (.mrsTcr2AliasEl1 t) s → NvMemReady s →
      ∃ s' v, exec (.mrsTcr2AliasEl1 t) s = .next s' ∧ ReadsNvMem s s' t v)

/-- `MSR TCR2ALIAS_EL1, <Xt>` completes (42 R122), for both values of AliasWriteMasked: with it true the merge is under
ROMask(), with it false under 0. -/
def Obligations.MsrTcr2AliasEl1Completes : Prop :=
  ∀ (t : Nat) (s : State), Implemented s.cfg (.msrTcr2AliasEl1 t) →
    (ReachesRegister s s.inputs.hcrTVM (fineTrapTest (.msrTcr2AliasEl1 t) s) →
      ∃ s', exec (.msrTcr2AliasEl1 t) s = .next s' ∧
        WritesTcr2El1 s s'
          (if s.cfg.aliasWriteMasked then
            ((s.tcr2El1 &&& roMask s) ||| (s.readX t &&& ~~~roMask s)) &&& storageMask s.cfg
          else s.readX t &&& storageMask s.cfg)) ∧
    (s.el = .el2 → ClearAtEl2 s → s.inputs.el2IsInHost = true →
      ∃ s', exec (.msrTcr2AliasEl1 t) s = .next s' ∧ WritesTcr2El2 s s' (s.readX t)) ∧
    (DirectedToNvMem (.msrTcr2AliasEl1 t) s → NvMemReady s → NvMemClearOfText s →
      ∃ s', exec (.msrTcr2AliasEl1 t) s = .next s' ∧ StoresNvMem s s' (s.readX t))

/-- Every execution of an instruction is one of the nine outcomes of 40 R100, each with its value, with nothing else changed, or,
where the access is directed to memory, one of the three stops of 20_memory.md R63, R65, R73. A write of TCR2_EL1 leaves the
merge of 10_state.md R45 under the mask of the instruction's name. -/
def Obligations.EveryOutcomeIsOneOfTheNine : Prop :=
  ∀ (i : Instr) (s : State),
    (∃ s', exec i s = .next s' ∧ i.direction = .read ∧
      (ReadsInto s s' i.reg s.tcr2El1 ∨ ReadsInto s s' i.reg s.tcr2El2 ∨
        (DirectedToNvMem i s ∧ NvMemReady s ∧ ∃ v, ReadsNvMem s s' i.reg v))) ∨
    (∃ s', exec i s = .next s' ∧ i.direction = .write ∧
      (WritesTcr2El1 s s' (mergedValue i s) ∨ WritesTcr2El2 s s' (s.readX i.reg) ∨
        (DirectedToNvMem i s ∧ NvMemReady s ∧ NvMemClearOfText s ∧ StoresNvMem s s' (s.readX i.reg)))) ∨
    exec i s = .fault (.undefined s.pc (encode i)) ∨
    exec i s = .fault (.trap .el2 0x18 s.pc (encode i)) ∨
    exec i s = .fault (.trap .el3 0x18 s.pc (encode i)) ∨
    (DirectedToNvMem i s ∧ ¬ (NvMemReady s ∧ (i.direction = .write → NvMemClearOfText s)) ∧
      (exec i s = .refused (.nvMemBaseMisaligned s.inputs.nvMemBase) ∨
        exec i s = .fault (.nvMemNotAdmitted s.pc (encode i)) ∨
        exec i s = .refused (.nvMemWriteOntoText (s.inputs.nvMemBase + 0x270))))

/-! ### The decision tables -/

/-- The chains of R101 and R102 are the decision table R103, row for row, for both directions. -/
def Obligations.NameTcr2El1FollowsItsTable : Prop :=
  ∀ (t : Nat) (s : State),
    (∃ v, firstRow (tableTcr2El1 s s.inputs.hcrTRVM s.inputs.hfgrtrTcrEl1) = some v ∧
      exec (.mrsTcr2El1 t) s = completeRead (.mrsTcr2El1 t) t v s) ∧
    (∃ v, firstRow (tableTcr2El1 s s.inputs.hcrTVM s.inputs.hfgwtrTcrEl1) = some v ∧
      exec (.msrTcr2El1 t) s = completeWrite (.msrTcr2El1 t) t (if s.el = .el1 then roMask s else 0) v s)

/-- The chains of R111 and R112 are the decision table R113, row for row, for both directions. -/
def Obligations.NameTcr2El12FollowsItsTable : Prop :=
  ∀ (t : Nat) (s : State),
    ∃ v, firstRow (tableTcr2El12 s) = some v ∧
      exec (.mrsTcr2El12 t) s = completeRead (.mrsTcr2El12 t) t v s ∧
      exec (.msrTcr2El12 t) s = completeWrite (.msrTcr2El12 t) t 0 v s

/-- The chains of R121 and R122 are the decision table R123, row for row, for both directions. -/
def Obligations.NameTcr2AliasFollowsItsTable : Prop :=
  ∀ (t : Nat) (s : State),
    (∃ v, firstRow (tableTcr2Alias s s.inputs.hcrTRVM s.inputs.hfgrtr2NAlias) = some v ∧
      exec (.mrsTcr2AliasEl1 t) s = completeRead (.mrsTcr2AliasEl1 t) t v s) ∧
    (∃ v, firstRow (tableTcr2Alias s s.inputs.hcrTVM s.inputs.hfgwtr2NAlias) = some v ∧
      exec (.msrTcr2AliasEl1 t) s =
        completeWrite (.msrTcr2AliasEl1 t) t (if s.el = .el1 ∧ s.cfg.aliasWriteMasked = true then roMask s else 0) v s)

/-! ### Undefined and traps -/

/-- With FEAT_TCR2 or FEAT_AA64 false all six instructions are Undefined, at every level and under every input
(30_encoding.md R86). -/
def Obligations.UnimplementedRegisterIsUndefined : Prop :=
  ∀ (i : Instr) (s : State), (s.cfg.featTCR2 = false ∨ s.cfg.featAA64 = false) →
    exec i s = .fault (.undefined s.pc (encode i))

/-- With its accessor condition false, FEAT_VHE for the name TCR2_EL12 and FEAT_SRMASK for TCR2ALIAS_EL1, an access is Undefined
in both directions (30_encoding.md R85; for MRS TCR2_EL12 the choice of 90_conflicts.md C2, log 16). -/
def Obligations.UnallocatedAccessorIsUndefined : Prop :=
  ∀ (i : Instr) (s : State),
    (i.accessor = .tcr2El12 ∧ s.cfg.featVHE = false ∨ i.accessor = .tcr2AliasEl1 ∧ s.cfg.featSRMASK = false) →
    exec i s = .fault (.undefined s.pc (encode i))

/-- An EL0 access is Undefined whatever the controls of EL2 and EL3 say (60_exceptions.md R136, R143). -/
def Obligations.El0AccessIsUndefined : Prop :=
  ∀ (i : Instr) (s : State), s.el = .el0 → exec i s = .fault (.undefined s.pc (encode i))

/-- The causes of Undefined, complete (60_exceptions.md R131), each at its priority (R136). -/
def Obligations.UndefinedCausesAreComplete : Prop :=
  ∀ (i : Instr) (s : State),
    exec i s = .fault (.undefined s.pc (encode i)) ↔
      ¬ Implemented s.cfg i ∨ s.el = .el0 ∨
      (ScrTestedArm i s ∧ ScrDisabled s ∧ s.inputs.el3SDDUndefPriority = true) ∨
      (ScrTestedArm i s ∧ ScrDisabled s ∧ s.inputs.el3SDDUndef = true ∧
        ¬ (i.accessor ≠ .tcr2El12 ∧ El2ControlFirst i s)) ∨
      (i.accessor = .tcr2El12 ∧ s.el = .el1 ∧ s.inputs.nvx.getLsbD 0 = false) ∨
      (i.accessor = .tcr2El12 ∧ s.el = .el2 ∧ s.inputs.el2IsInHost = false) ∨
      (i.accessor = .tcr2El12 ∧ s.el = .el3 ∧ s.inputs.el2IsInHost = false)

/-- The causes of a trap to EL2, complete (60_exceptions.md R132), each at its priority (R136). -/
def Obligations.El2TrapCausesAreComplete : Prop :=
  ∀ (i : Instr) (s : State),
    exec i s = .fault (.trap .el2 0x18 s.pc (encode i)) ↔
      Implemented s.cfg i ∧ s.el = .el1 ∧
        ((i.accessor ≠ .tcr2El12 ∧ El2Control i s ∧ ¬ (ScrDisabled s ∧ s.inputs.el3SDDUndefPriority = true)) ∨
          (i.accessor = .tcr2El12 ∧
            (s.inputs.nvx = 0b001#3 ∨ s.inputs.nvx = 0b011#3 ∨ s.inputs.nvx = 0b111#3)))

/-- The causes of a trap to EL3, complete (60_exceptions.md R132), at its priority (R136). -/
def Obligations.El3TrapCausesAreComplete : Prop :=
  ∀ (i : Instr) (s : State),
    exec i s = .fault (.trap .el3 0x18 s.pc (encode i)) ↔
      Implemented s.cfg i ∧ ScrTestedArm i s ∧ ScrDisabled s ∧
        s.inputs.el3SDDUndefPriority = false ∧ s.inputs.el3SDDUndef = false ∧
        ¬ (i.accessor ≠ .tcr2El12 ∧ El2ControlFirst i s)

/-- Every trap carries the code 0x18, the pc and the word; EL1 accesses are taken by EL2 or EL3, EL2 accesses by EL3 only, and
no other access is trapped (60_exceptions.md R132, R141). -/
def Obligations.TrapsAreTakenAbove : Prop :=
  ∀ (i : Instr) (s : State) (target : TrapTarget) (code : BitVec 6) (pc : Word) (w : InstrWord),
    exec i s = .fault (.trap target code pc w) →
      code = 0x18 ∧ pc = s.pc ∧ w = encode i ∧ (s.el = .el1 ∨ (s.el = .el2 ∧ target = .el3))

/-- At EL1, whenever the register is ignored (10_state.md R42), no access by the name TCR2_EL1 or TCR2ALIAS_EL1 reaches it or
memory: each ends in a fault (40 R104 for the name TCR2_EL1; 42 R120, R123 for the alias, whose chain has the same tests). -/
def Obligations.IgnoredRegisterIsOutOfReachAtEl1 : Prop :=
  ∀ (i : Instr) (s : State), s.el = .el1 → i.accessor ≠ .tcr2El12 → tcr2Ignored s.cfg s.inputs = true →
    exec i s = .fault (.undefined s.pc (encode i)) ∨ exec i s = .fault (.trap .el2 0x18 s.pc (encode i)) ∨
      exec i s = .fault (.trap .el3 0x18 s.pc (encode i))

/-- At EL1 the name TCR2_EL12 never reaches a register: where it completes, NVx is '101', a read takes the bytes of NVMem and a
write changes only them, but for the record of the access (41 R110; log 33). -/
def Obligations.NameTcr2El12AtEl1IsMemoryOnly : Prop :=
  ∀ (t : Nat) (s s' : State), s.el = .el1 →
    (exec (.mrsTcr2El12 t) s = .next s' →
      s.inputs.nvx = 0b101#3 ∧ ∃ v, ReadsNvMem s s' t v) ∧
    (exec (.msrTcr2El12 t) s = .next s' → s.inputs.nvx = 0b101#3 ∧ StoresNvMem s s' (s.readX t))

/-- With no EL2 and consistent inputs (00_scope.md R8) an EL1 access by the name TCR2_EL1 or TCR2ALIAS_EL1 is never trapped to
EL2, and the only other thing than the register it can meet is SCR_EL3.TCR2En (40 R101(d); 42 R120 to R122 for the alias). -/
def Obligations.WithoutEl2OnlyScrStops : Prop :=
  ∀ (i : Instr) (s : State), Consistent s → s.cfg.haveEL2 = false → s.el = .el1 → i.accessor ≠ .tcr2El12 →
    Implemented s.cfg i →
    ((∃ s', exec i s = .next s' ∧ s'.mem = s.mem ∧ s'.tcr2El2 = s.tcr2El2) ↔ ¬ ScrDisabled s) ∧
    exec i s ≠ .fault (.trap .el2 0x18 s.pc (encode i))

/-! ### The masks and the merge -/

/-- ROMask(), position by position (10_state.md R44): read-only exactly when FEAT_SRMASK is implemented, the current level is
EL1, masking is enabled, the field's mask bit is 1 and the field exists at this instant (DisCH1 and DisCH0 only while the stored
D128 is 1); a reserved position never. -/
def Obligations.ReadOnlyPositions : Prop :=
  ∀ s : State,
    (∀ f : Field, (roMask s).getLsbD f.pos = true ↔
      s.cfg.featSRMASK = true ∧ s.el = .el1 ∧ s.inputs.srMaskingEnabled = true ∧ s.inputs.tcr2Mask.get f = true ∧
        f.feature s.cfg = true ∧ ((f = .disCH1 ∨ f = .disCH0) → s.tcr2El1.getLsbD 5 = true)) ∧
    (∀ k, (∀ f : Field, f.pos ≠ k) → (roMask s).getLsbD k = false)

/-- NamedMask of a register that is present, feature by feature, as 10_state.md R45 lists it and 95_test_vectors.md section 3
gives it in numbers; an absent register names nothing (00_scope.md R2, log 23). -/
def Obligations.NamedMaskByFeature : Prop :=
  ∀ c : Config,
    namedMask c = if c.registerPresent = false then 0 else
      (if c.featTHE then 0x300001 else 0) ||| (if c.featTHE && !c.pttwiRO0 then 0x400 else 0) |||
      (if c.featASID2 then 0x70000 else 0) ||| (if c.featD128 then 0xC020 else 0) |||
      (if c.featHAFT then 0x800 else 0) ||| (if c.featAIE then 0x10 else 0) |||
      (if c.featS1POE then 0xC else 0) ||| (if c.featS1PIE then 0x2 else 0)

/-- A write by `MSR TCR2_EL1, <Xt>` at EL1, bit by bit: a field masked by TCR2MASK_EL1 while it exists keeps its value, every
other named field takes the bit of x[t], a reserved bit takes it where it is storage and stays 0 where it is hardwired
(10_state.md R39, R44, R45). -/
def Obligations.MaskedWriteBitByBit : Prop :=
  ∀ (t : Nat) (s s' : State), s.el = .el1 → s.inputs.nvx ≠ 0b111#3 → exec (.msrTcr2El1 t) s = .next s' →
    (∀ f : Field, f.named s.cfg = true →
      s'.tcr2El1.getLsbD f.pos =
        if s.cfg.featSRMASK = true ∧ s.inputs.srMaskingEnabled = true ∧ s.inputs.tcr2Mask.get f = true ∧
            ((f = .disCH1 ∨ f = .disCH0) → s.tcr2El1.getLsbD 5 = true)
        then s.tcr2El1.getLsbD f.pos else (s.readX t).getLsbD f.pos) ∧
    (∀ k, k < 64 → (∀ f : Field, f.named s.cfg = true → f.pos ≠ k) →
      s'.tcr2El1.getLsbD k =
        if s.cfg.featTHE = true ∧ s.cfg.pttwiRO0 = true ∧ k = 10 then false
        else s.cfg.res0StorageMask.getLsbD k && (s.readX t).getLsbD k)

/-- Writes at EL2 and EL3 are never masked: TCR2MASK_EL1 and the masking enable change nothing there (10_state.md R44,
R45). -/
def Obligations.MaskHasNoEffectAwayFromEl1 : Prop :=
  ∀ (i : Instr) (s : State) (m : FieldBits) (b : Bool), s.el ≠ .el1 →
    let n := { s.inputs with tcr2Mask := m, srMaskingEnabled := b }
    exec i { s with inputs := n } = withInputs n (exec i s)

/-- With EL3 absent, SCR_EL3 and the EL3SDD conditions are never consulted (00_scope.md R12). -/
def Obligations.AbsentEl3IsNotConsulted : Prop :=
  ∀ (i : Instr) (s : State) (p q a b c : Bool), s.cfg.haveEL3 = false →
    let n := { s.inputs with
      el3SDDUndefPriority := p, el3SDDUndef := q, scrTCR2En := a, scrFGTEn := b, scrFGTEn2 := c }
    exec i { s with inputs := n } = withInputs n (exec i s)

/-- With EL2 disabled, HCR_EL2's trap bits, the fine-grained trap registers and HCRX_EL2 are never consulted (00_scope.md
R12). -/
def Obligations.DisabledEl2IsNotConsulted : Prop :=
  ∀ (i : Instr) (s : State) (a b c d e f g h : Bool), s.inputs.el2Enabled = false →
    let n := { s.inputs with
      hcrTRVM := a, hcrTVM := b, hfgrtrTcrEl1 := c, hfgwtrTcrEl1 := d, hfgrtr2NAlias := e, hfgwtr2NAlias := f,
      isHCRXEL2Enabled := g, hcrxTCR2En := h }
    exec i { s with inputs := n } = withInputs n (exec i s)

/-! ### Memory -/

/-- Under NVx = '111' the names TCR2_EL1 and TCR2ALIAS_EL1, and under '101' the name TCR2_EL12, reach one and the same eight
bytes, which hold x[t] whole in either byte order, while TCR2_EL1 and TCR2_EL2 stay as they are (20_memory.md R66; 70
R170). A byte holds "the last value written to it, by this PE or by any other agent" (R64): another agent's store sets that byte,
leaves every other byte as it was and changes nothing else but the schedule; effects of R68 that are outstanding may happen after
it (log 19). -/
def Obligations.AllNamesShareTheNvMemBytes : Prop :=
  (∀ (s : State) (a : Word) (v : Byte) (rest : List Move), s.schedule = .agentStore a v :: rest →
    ∃ s', step s = .next (settleBeforeNext s') ∧ (s.outstanding = [] → step s = .next s') ∧
      s' = { s with mem := s'.mem, schedule := rest } ∧ s'.mem.readByte a.toNat = v ∧
      ∀ b, b ≠ a.toNat → s'.mem.readByte b = s.mem.readByte b) ∧
  ∀ (t u : Nat) (s s1 : State), u < 31 → DirectedToNvMem (.msrTcr2El1 t) s → exec (.msrTcr2El1 t) s = .next s1 →
    s1.tcr2El1 = s.tcr2El1 ∧ s1.tcr2El2 = s.tcr2El2 ∧
    (s.inputs.hcrTRVM = s.inputs.hcrTVM → fineTrapTest (.mrsTcr2El1 u) s = false →
      ∃ s2, exec (.mrsTcr2El1 u) s1 = .next s2 ∧ s2.readX u = s.readX t) ∧
    (s.cfg.featSRMASK = true → s.inputs.hcrTRVM = s.inputs.hcrTVM → fineTrapTest (.mrsTcr2AliasEl1 u) s = false →
      ∃ s2, exec (.mrsTcr2AliasEl1 u) s1 = .next s2 ∧ s2.readX u = s.readX t) ∧
    (s.cfg.featVHE = true →
      ∃ s2, exec (.mrsTcr2El12 u) { s1 with inputs := { s1.inputs with nvx := 0b101#3 } } = .next s2 ∧
        s2.readX u = s.readX t)

/-- Where an NVMem access does not complete: refused with the base misaligned, stuck outside the admitted set, and, for a write,
refused on program text (20_memory.md R63, R65, R73; the order of the three is the model's choice, log 9). -/
def Obligations.NvMemAccessStopsByName : Prop :=
  ∀ (i : Instr) (s : State), DirectedToNvMem i s →
    (s.inputs.nvMemBase.extractLsb' 0 3 ≠ 0#3 → exec i s = .refused (.nvMemBaseMisaligned s.inputs.nvMemBase)) ∧
    (s.inputs.nvMemBase.extractLsb' 0 3 = 0#3 → ¬ NvMemReady s → exec i s = .fault (.nvMemNotAdmitted s.pc (encode i))) ∧
    (NvMemReady s → i.direction = .write → ¬ NvMemClearOfText s →
      exec i s = .refused (.nvMemWriteOntoText (s.inputs.nvMemBase + 0x270)))

/-! ### Ordering (20_memory.md R68 to R70; the form in which both orders appear is the model's, log 19) -/

/-- An MRS by one of the names TCR2_EL1 and TCR2_EL12 after an MSR by the other, at EL3 with E2H = 1 and no synchronization, may
return the value the register held before, or the value written (R68: "A using accessor name TCR2_EL1 and B using TCR2_EL12 or the
reverse"). -/
def Obligations.ReadMayOvertakeWrite : Prop :=
  ∀ (a b : Accessor) (t u : Nat) (s : State), crossPair a b = true → t ≤ 31 → u < 31 → AtEl3Unordered s →
    Pair s (msr a t) (mrs b u) →
    (s.schedule = [.executeLate, .execute, .perform a] →
      ∃ s', runSteps 3 s = .next s' ∧ s'.readX u = s.tcr2El1 ∧
        s'.tcr2El1 = s.readX t &&& storageMask s.cfg ∧ s'.pc = s.pc + 8) ∧
    (s.schedule = [] →
      ∃ s', runSteps 2 s = .next s' ∧ s'.readX u = s.readX t &&& storageMask s.cfg ∧
        s'.tcr2El1 = s.readX t &&& storageMask s.cfg ∧ s'.pc = s.pc + 8)

/-- Two MSRs by the two names, in either order of the names and so placed, may leave either value (R68). -/
def Obligations.TwoWritesMayLandInEitherOrder : Prop :=
  ∀ (a b : Accessor) (t u : Nat) (s : State), crossPair a b = true → t ≤ 31 → u ≤ 31 → AtEl3Unordered s →
    Pair s (msr a t) (msr b u) →
    (s.schedule = [.executeLate, .execute, .perform a] →
      ∃ s', runSteps 3 s = .next s' ∧ s'.tcr2El1 = s.readX t &&& storageMask s.cfg) ∧
    (s.schedule = [] →
      ∃ s', runSteps 2 s = .next s' ∧ s'.tcr2El1 = s.readX u &&& storageMask s.cfg)

/-- An MRS by either name before an MSR by the other may read what the MSR writes, where the two use different registers
(R68). -/
def Obligations.WriteMayOvertakeRead : Prop :=
  ∀ (a b : Accessor) (t u : Nat) (s : State), crossPair a b = true → t < 31 → u ≤ 31 → t ≠ u → AtEl3Unordered s →
    Pair s (mrs a t) (msr b u) →
    (s.schedule = [.executeLate, .execute, .perform a] →
      ∃ s', runSteps 3 s = .next s' ∧ s'.readX t = s.readX u &&& storageMask s.cfg) ∧
    (s.schedule = [] → ∃ s', runSteps 2 s = .next s' ∧ s'.readX t = s.tcr2El1)

/-- With Synchronize between, program order holds (R68, R70(c)), for every pair of instructions, names and directions. Synchronize
gives every outstanding access its effect, in program order, leaves none outstanding, and changes no register, memory or input
of its own. So an instruction executed late and then synchronized leaves what it leaves executed in program order, whatever
comes next; for an MRS by the name TCR2_EL12 after an MSR by TCR2_EL1, two MSRs by the two names, and an MSR after an MRS, the
results are spelled out, in both assignments of the names. -/
def Obligations.SynchronizeRestoresOrder : Prop :=
  (∀ (s : State) (rest : List Move), s.schedule = .synchronize :: rest →
    ∃ s', step s = .next s' ∧ s'.outstanding = [] ∧
      s' = { applyEffects { s with schedule := rest, outstanding := [] } s.outstanding with
        unsynced := [], unsyncedEff := [] }) ∧
  (∀ (s : State) (rest : List Move), s.outstanding = [] →
    runSteps 2 { s with schedule := .executeLate :: .synchronize :: rest } =
      runSteps 2 { s with schedule := .execute :: .synchronize :: rest }) ∧
  (∀ (a b : Accessor) (t u : Nat) (s : State), crossPair a b = true → t ≤ 31 → u ≤ 31 → AtEl3Unordered s →
    s.schedule = [.executeLate, .synchronize, .execute] →
      (Pair s (msr a t) (mrs b u) → u < 31 →
        ∃ s', runSteps 3 s = .next s' ∧ s'.readX u = s.readX t &&& storageMask s.cfg) ∧
      (Pair s (msr a t) (msr b u) →
        ∃ s', runSteps 3 s = .next s' ∧ s'.tcr2El1 = s.readX u &&& storageMask s.cfg) ∧
      (Pair s (mrs a t) (msr b u) → t < 31 →
        ∃ s', runSteps 3 s = .next s' ∧ s'.readX t = s.tcr2El1))

/-- At EL3, an MRS after an MSR returns the value written unless the two are a cross-named pair of R68: for the same accessor name
(20_memory.md R69), and with TCR2ALIAS_EL1, where FEAT_SRMASK implements it, as either (R68 "says nothing about TCR2ALIAS_EL1",
log 19). It does so however late either is executed, once all effects have happened, as they have at the end of a run. -/
def Obligations.SameNameKeepsProgramOrder : Prop :=
  ∀ (a b : Accessor) (t u : Nat) (s : State) (m n : Move), crossPair a b = false →
    (a = .tcr2AliasEl1 ∨ b = .tcr2AliasEl1 → s.cfg.featSRMASK = true) →
    t ≤ 31 → u < 31 → AtEl3Unordered s → Pair s (msr a t) (mrs b u) →
    m ∈ [.execute, .executeLate] → n ∈ [.execute, .executeLate] → s.schedule = [m, n] →
      ∃ s', runSteps 2 s = .next s' ∧
        (performAll s').readX u = s.readX t &&& storageMask s.cfg ∧
        (performAll s').tcr2El1 = s.readX t &&& storageMask s.cfg ∧
        (n = .execute → s'.readX u = s.readX t &&& storageMask s.cfg)

/-- A machine that stops, by a fault or a refusal, has nothing outstanding: the state 60_exceptions.md R139 leaves "exactly as
before the instruction" holds the effect of every earlier access. A run that ends, normally or not, ends in a state with nothing
outstanding (70 R172; the model's choice, logs 10, 19 and 34). -/
def Obligations.StoppedMachineHasNothingOutstanding : Prop :=
  (∀ s : State, Inv s → (∀ s', step s ≠ .next s') → s.outstanding = [] ∧ performAll s = s) ∧
  (∀ (last : Word) (fuel : Nat) (s s' : State) (r : Fault) (q : Refusal),
    runTo last fuel s = .normal s' ∨ runTo last fuel s = .fault s' r ∨ runTo last fuel s = .refused s' q →
    s'.outstanding = [])

/-- Away from EL3, or with E2H 0, an instruction is never executed late: both moves of the PE do the same (R68, R69). -/
def Obligations.LateMeansNothingElsewhere : Prop :=
  ∀ (s : State) (rest : List Move), (s.el ≠ .el3 ∨ s.inputs.hcrE2H = false) →
    step { s with schedule := .executeLate :: rest } = step { s with schedule := .execute :: rest }

/-! ### Effective values and translation -/

/-- While the register is ignored every effective field is 0, and the two conditions of R42 are exactly when it is. An absent
register holds no state (00_scope.md R2): in the model's form (log 23) it has no storage bit, Warm reset leaves it 0 whatever the
draw, a write would store 0, and every effective field is 0. -/
def Obligations.IgnoredFieldsActAsZero : Prop :=
  ∀ (c : Config) (n : Inputs) (w : Word),
    (tcr2Ignored c n = true ↔
      (n.el2Enabled = true ∧ ¬ (n.isHCRXEL2Enabled = true ∧ n.hcrxTCR2En = true)) ∨
        (c.haveEL3 = true ∧ n.scrTCR2En = false)) ∧
    (tcr2Ignored c n = true → ∀ f, (effective c n w).get f = false) ∧
    (c.registerPresent = false →
      storageMask c = 0 ∧ warmResetValue c w = 0 ∧ (∀ old ro, mergeTcr2 c old w ro = 0) ∧
        ∀ f, (effective c n w).get f = false)

/-- The fifteen effective values of a register that is present and not ignored are the lines of 10_state.md R43; so the stored D128
changes five others (R40; 70 R169). -/
def Obligations.D128ChangesFiveFields : Prop :=
  ∀ (c : Config) (n : Inputs) (w : Word), c.registerPresent = true → tcr2Ignored c n = false →
    let e := effective c n w
    let d := c.featD128 && w.getLsbD 5
    (e.fngna1 = (c.featTHE && w.getLsbD 21) ∧ e.fngna0 = (c.featTHE && w.getLsbD 20) ∧
      e.fng1 = (c.featASID2 && w.getLsbD 18) ∧ e.fng0 = (c.featASID2 && w.getLsbD 17) ∧
      e.a2 = (c.featASID2 && w.getLsbD 16) ∧ e.disCH1 = (d && w.getLsbD 15) ∧ e.disCH0 = (d && w.getLsbD 14) ∧
      e.haft = (c.featHAFT && w.getLsbD 11) ∧ e.pttwi = (c.featTHE && !c.pttwiRO0 && w.getLsbD 10) ∧ e.d128 = d ∧
      e.aie = (c.featAIE && (d || w.getLsbD 4)) ∧ e.poe = (c.featS1POE && w.getLsbD 3) ∧
      e.e0poe = (c.featS1POE && w.getLsbD 2) ∧ e.pie = (c.featS1PIE && (d || w.getLsbD 1)) ∧
      e.pnch = (c.featTHE && !d && w.getLsbD 0)) ∧
    (c.featD128 = true → w.getLsbD 5 = true →
      e.d128 = true ∧ e.aie = c.featAIE ∧ e.pie = c.featS1PIE ∧ e.pnch = false ∧
        e.disCH1 = w.getLsbD 15 ∧ e.disCH0 = w.getLsbD 14) ∧
    (c.featD128 = true → w.getLsbD 5 = false →
      e.d128 = false ∧ e.aie = (c.featAIE && w.getLsbD 4) ∧ e.pie = (c.featS1PIE && w.getLsbD 1) ∧
        e.pnch = (c.featTHE && w.getLsbD 0) ∧ e.disCH1 = false ∧ e.disCH0 = false)

/-- While the register is ignored its fields switch nothing of translation (10_state.md R42; 20_memory.md R72). -/
def Obligations.IgnoredRegisterSwitchesNothing : Prop :=
  ∀ s : State, tcr2Ignored s.cfg s.inputs = true →
    (∀ b f, globality s.eff b f = .byNgBit) ∧ twoAsids s.eff = false ∧
      (∀ b start bit, contiguousBit s.eff b start bit = some bit) ∧ tableAccessFlagManaged s.eff = false ∧
      rcwsReducedCoherence s s.eff.pttwi = some false ∧ translationSystem s.eff = .vmsav8_64 ∧ attributeIndexing s.eff = false ∧
      (∀ p, permissionOverlay s.eff p = false) ∧ permissionModel s.eff = .direct ∧ bit52IsProtected s.eff = false

/-- What each field switches, both ways (20_memory.md R72; 10_state.md R24 to R38): globality under FNG and under FNGNA with its
four conditions (that the two combine by "or" is DEDUCED, log 32), two ASIDs, the Contiguous bit of the Start Table under DisCH,
the table access flag, Reduced Coherence under PTTWI and HCRX_EL2.PTTWI (log 30), the translation process, attribute indexing,
the two overlays, the permission model, and bit[52] as the Protected bit and then not the Contiguous bit. -/
def Obligations.FieldsSwitchTranslation : Prop :=
  ∀ (s : State) (e : FieldBits),
    (∀ (b : Ttbr) (f : TranslationFacts), globality e b f = .forcedNonGlobal ↔
      (match b with | .ttbr1 => e.fng1 | .ttbr0 => e.fng0) = true ∨
      ((match b with | .ttbr1 => e.fngna1 | .ttbr0 => e.fngna0) = true ∧
        f.regimeEl10 = true ∧ f.bothStages = true ∧ f.protection = true ∧ f.assured = false)) ∧
    (∀ (b : Ttbr) (start bit : Bool),
      (e.pnch = true → bit52Use e = .protectedBit ∧ protectedBit e bit = some bit ∧ contiguousBit e b start bit = none) ∧
      (e.pnch = false → bit52Use e = .contiguousBit ∧ protectedBit e bit = none ∧
        (start = true → (match b with | .ttbr1 => e.disCH1 | .ttbr0 => e.disCH0) = true →
          contiguousBit e b start bit = some false) ∧
        (start = false ∨ (match b with | .ttbr1 => e.disCH1 | .ttbr0 => e.disCH0) = false →
          contiguousBit e b start bit = some bit))) ∧
    rcwsReducedCoherence s false = some false ∧
    (s.cfg.haveEL2 = true → s.inputs.isHCRXEL2Enabled = true →
      rcwsReducedCoherence s true = some s.inputs.hcrxPTTWI) ∧
    rcwsMayHave s (rcwsReducedCoherence s s.eff.pttwi) = true ∧
    (translationSystem e = .vmsav9_128 ↔ e.d128 = true) ∧
    (permissionModel e = .indirect ↔ e.pie = true) ∧
    permissionOverlay e .el1 = e.poe ∧ permissionOverlay e .el0 = e.e0poe ∧
    twoAsids e = e.a2 ∧ tableAccessFlagManaged e = e.haft ∧ attributeIndexing e = e.aie

/-- A change of inputs leaves every register and memory untouched and takes effect on every field at once (70 R168): for POE and
E0POE no value under the old inputs may be used (10_state.md R46), but those that R167 allows, the effective values that an MSR
since the last Synchronize found and leaves, which R168 exempts. Effects of R68 that are outstanding may happen after it (log
19). -/
def Obligations.InputsChangeOnlyEffectiveValues : Prop :=
  ∀ (s : State) (n : Inputs) (rest : List Move), s.schedule = .setInputs n :: rest →
    ∃ s', step s = .next (settleBeforeNext s') ∧ (s.outstanding = [] → step s = .next s') ∧
      s' = { s with inputs := n, schedule := rest, cachedEff := s'.cachedEff } ∧
      (∀ f, s'.eff.get f = (effective s.cfg n s.tcr2El1).get f) ∧
      (∀ f b, f = .poe ∨ f = .e0poe → tcr2Ignored s.cfg n = true →
        (mayUse s' f b = true ↔ b = false ∨ ∃ e ∈ s.unsyncedEff, e.get f = b))

/-- Between an MSR and the next Synchronize a translation may use, for each field, the old or the new effective value, also when
the inputs change in between. For an MSR executed late (20_memory.md R68) that is so from its execution on, before its effect
happens, and the old value is the stored one or one that an earlier late MSR has yet to store. After Synchronize only the current
value of POE and E0POE may be used; and Warm reset, which is no MSR, makes no old value of POE and E0POE usable (70 R167;
10_state.md R35, R36, R46; the form is the model's, log 20). -/
def Obligations.WriteIsSeenOldOrNewUntilSynchronize : Prop :=
  (∀ (i : Instr) (s s' : State), exec i s = .next s' → s'.tcr2El1 ≠ s.tcr2El1 →
    ∀ f, mayUse s' f (s.eff.get f) = true ∧ mayUse s' f (s'.eff.get f) = true ∧
      ∀ n, mayUse (setInputs n s') f (s.eff.get f) = true ∧ mayUse (setInputs n s') f (s'.eff.get f) = true) ∧
  (∀ (i : Instr) (s : State) (rest : List Move), i.wf = true → s.pcAligned = true → TextAt s s.pc i →
    s.schedule = .executeLate :: rest → lateAllowed i s = true → i.direction = .write →
    let r := settleRegisters i { s with schedule := rest }
    ∃ s', step s = .next s' ∧
      ∀ old w, old = r.tcr2El1 ∨ (∃ d ∈ r.outstanding, d.effect = .write old) → old ≠ mergedValue i r →
        w = old ∨ w = mergedValue i r → ∀ f,
          mayUse s' f ((effective s.cfg s.inputs w).get f) = true ∧
            ∀ n, mayUse (setInputs n s') f ((effective s.cfg s.inputs w).get f) = true) ∧
  (∀ (s : State) (f : Field) (b : Bool), f = .poe ∨ f = .e0poe →
    (mayUse (synchronize s) f b = true ↔ b = (synchronize s).eff.get f)) ∧
  (∀ (s : State) (d : ResetDraw) (f : Field) (b : Bool), f = .poe ∨ f = .e0poe → s.unsynced = [] → s.unsyncedEff = [] →
    (mayUse (warmReset d s) f b = true ↔ b = (warmReset d s).eff.get f))

/-- For each of the 13 fields a TLB may cache, all but POE and E0POE, every effective value it has had stays usable over every step
until the cached copies are removed (10_state.md R46). Their removal changes nothing else; with no MSR since the last Synchronize,
exactly the current effective value of every field may be used after it (the form is the model's, log 20). -/
def Obligations.CachedValuesStayUntilDropped : Prop :=
  (∀ (s s' : State) (f : Field) (b : Bool), f ≠ .poe → f ≠ .e0poe → step s = .next s' →
    (∀ rest, s.schedule ≠ .dropCached :: rest) →
    (b = s.eff.get f ∨ ∃ e ∈ s.cachedEff, e.get f = b) →
    mayUse s' f b = true) ∧
  (∀ (s : State) (rest : List Move), s.schedule = .dropCached :: rest →
    ∃ s', step s = .next (settleBeforeNext s') ∧ (s.outstanding = [] → step s = .next s') ∧
      s' = { s with schedule := rest, cachedEff := [] } ∧
      (s.unsynced = [] → s.unsyncedEff = [] → ∀ f b, mayUse s' f b = true ↔ b = s'.eff.get f))

/-! ### The syndrome -/

/-- The ISS table of 60_exceptions.md R133, with Rt in bits 9 to 5 (PRESUMED by the spec, G5, log 11; nothing else of the model
depends on it). -/
def Obligations.TrapSyndromeTable : Prop :=
  ∀ t : BitVec 5,
    trapISS (.mrsTcr2El1 t.toNat) = 0x360801#25 ||| (t.setWidth 25 <<< 5) ∧
    trapISS (.msrTcr2El1 t.toNat) = 0x360800#25 ||| (t.setWidth 25 <<< 5) ∧
    trapISS (.mrsTcr2El12 t.toNat) = 0x374801#25 ||| (t.setWidth 25 <<< 5) ∧
    trapISS (.msrTcr2El12 t.toNat) = 0x374800#25 ||| (t.setWidth 25 <<< 5) ∧
    trapISS (.mrsTcr2AliasEl1 t.toNat) = 0x3E080F#25 ||| (t.setWidth 25 <<< 5) ∧
    trapISS (.msrTcr2AliasEl1 t.toNat) = 0x3E080E#25 ||| (t.setWidth 25 <<< 5)
end

