-- ==== Sys2Proof/Laws/Fields.lean ====
section
/-! SUPPORT. The masks of TCR2_EL1 bit by bit (10_state.md R21, R44, R45; 70 R162). -/

namespace Sys2Proof.Machine

/-- A bit of a mask is set exactly when a field at that position is picked. -/
theorem maskOver_getLsbD (p : Field → Bool) (l : List Field) (k : Nat) (hk : k < 64) :
    (maskOver p l).getLsbD k = l.any fun f => p f && f.pos == k := by
  induction l with
  | nil => simp [maskOver]
  | cons f l ih =>
    simp only [maskOver, BitVec.getLsbD_or, ih, List.any_cons]
    cases hp : p f
    · simp
    · simp only [if_true, BitVec.getLsbD_twoPow, Bool.true_and]
      by_cases hf : f.pos = k <;> simp [hf, hk]

/-- The same for the mask over all 15 fields. -/
theorem maskOf_getLsbD (p : Field → Bool) (k : Nat) (hk : k < 64) :
    (maskOf p).getLsbD k = Field.all.any fun f => p f && f.pos == k :=
  maskOver_getLsbD p Field.all k hk

/-- Every field is in the list of all fields. -/
theorem Field.mem_all (f : Field) : f ∈ Field.all := by
  cases f <;> decide

/-- Two fields at one position are one field (10_state.md R21). -/
theorem Field.pos_inj (f g : Field) (h : f.pos = g.pos) : f = g := by
  cases f <;> cases g <;> first | rfl | exact absurd h (by decide)

theorem Field.pos_lt (f : Field) : f.pos < 64 := by
  cases f <;> decide

/-- At a field's own position the mask holds that field's bit. -/
theorem maskOf_getLsbD_pos (p : Field → Bool) (f : Field) : (maskOf p).getLsbD f.pos = p f := by
  rw [maskOf_getLsbD p f.pos f.pos_lt]
  cases hp : p f
  · rw [List.any_eq_false]
    intro g _ hg
    simp only [Bool.and_eq_true, beq_iff_eq] at hg
    rw [Field.pos_inj g f hg.2, hp] at hg
    exact absurd hg.1 (by decide)
  · rw [List.any_eq_true]
    exact ⟨f, f.mem_all, by simp [hp]⟩

/-- NamedMask at a field's position (10_state.md R45). -/
theorem namedMask_getLsbD_pos (c : Config) (f : Field) : (namedMask c).getLsbD f.pos = f.named c :=
  maskOf_getLsbD_pos (Field.named c) f

/-- FixedZeroMask holds bit 10 alone, and no bit of NamedMask (10_state.md R45). -/
theorem fixedZeroMask_getLsbD (c : Config) (k : Nat) :
    (fixedZeroMask c).getLsbD k = ((c.featTHE && c.pttwiRO0) && decide (k = 10)) := by
  unfold fixedZeroMask
  cases hc : c.featTHE && c.pttwiRO0
  · simp
  · simp only [if_true, Bool.true_and]
    by_cases hk : k < 64
    · interval_cases k <;> decide
    · rw [BitVec.getLsbD_of_ge _ _ (by omega)]
      simp
      omega

/-- A field the implementation names is stored (10_state.md R45). -/
theorem storageMask_getLsbD_named (c : Config) (f : Field) (h : f.named c = true) :
    (storageMask c).getLsbD f.pos = true := by
  have hp : c.registerPresent = true := by
    simp only [Field.named, Bool.and_eq_true] at h
    exact h.1.1
  simp [storageMask, hp, namedMask_getLsbD_pos, h]

/-- An absent register names no field and stores nothing (00_scope.md R2). -/
theorem absent_masks (c : Config) (h : c.registerPresent = false) : namedMask c = 0 ∧ storageMask c = 0 := by
  refine ⟨?_, by simp [storageMask, h]⟩
  simp [namedMask, maskOf, Field.all, maskOver, Field.named, h]

/-- StorageMask bit by bit (10_state.md R39, R45; 00_scope.md R2). -/
theorem storageMask_getLsbD (c : Config) (k : Nat) (hk : k < 64) :
    (storageMask c).getLsbD k =
      ((namedMask c).getLsbD k ||
        (c.registerPresent && c.res0StorageMask.getLsbD k && !(fixedZeroMask c).getLsbD k)) := by
  cases hp : c.registerPresent
  · simp [absent_masks c hp]
  simp only [storageMask, hp, if_true, BitVec.getLsbD_or, BitVec.getLsbD_and, BitVec.getLsbD_not, hk, decide_true, Bool.true_and]
  cases (namedMask c).getLsbD k <;> simp

/-- A merge bit by bit (10_state.md R45). -/
theorem mergeTcr2_getLsbD (c : Config) (old v ro : Word) (k : Nat) (hk : k < 64) :
    (mergeTcr2 c old v ro).getLsbD k =
      ((if ro.getLsbD k then old.getLsbD k else v.getLsbD k) && (storageMask c).getLsbD k) := by
  simp only [mergeTcr2, BitVec.getLsbD_and, BitVec.getLsbD_or, BitVec.getLsbD_not, hk, decide_true, Bool.true_and]
  cases ro.getLsbD k <;> simp

/-- Anding with StorageMask leaves nothing outside it. -/
theorem and_storageMask_clear (c : Config) (w : Word) : (w &&& storageMask c) &&& ~~~storageMask c = 0 := by
  simp [BitVec.and_assoc]

/-- A merged value lies in StorageMask (10_state.md R45). -/
theorem mergeTcr2_clear (c : Config) (old v ro : Word) : mergeTcr2 c old v ro &&& ~~~storageMask c = 0 :=
  and_storageMask_clear c _

/-- The value after Warm reset lies in StorageMask (70 R162(a)). -/
theorem warmResetValue_clear (c : Config) (u : Word) : warmResetValue c u &&& ~~~storageMask c = 0 := by
  unfold warmResetValue
  split
  · rw [BitVec.and_comm (u &&& storageMask c), BitVec.and_assoc, and_storageMask_clear]
    simp
  · exact and_storageMask_clear c u

/-- The effective values of an absent register are all 0 (00_scope.md R2). -/
theorem effective_absent (c : Config) (n : Inputs) (w : Word) (h : c.registerPresent = false) :
    effective c n w = FieldBits.zero := by
  simp [effective, effD128, inEffect, h, FieldBits.zero]

/-- With nothing read-only a merge forgets the old value. -/
theorem mergeTcr2_unmasked (c : Config) (old v : Word) : mergeTcr2 c old v 0 = v &&& storageMask c := by
  have h : ~~~(0 : Word) = BitVec.allOnes 64 := by decide
  simp only [mergeTcr2, h, BitVec.and_allOnes]
  simp

/-- ROMask() is 0 away from EL1 (10_state.md R44). -/
theorem roMask_of_not_el1 (s : State) (h : s.el ≠ .el1) : roMask s = 0 := by
  have : (s.el == EL.el1) = false := by simpa using h
  simp [roMask, this]

/-- ROMask() at EL1 with masking enabled, at a field's position (10_state.md R44). -/
theorem roMask_getLsbD_pos (s : State) (f : Field) :
    (roMask s).getLsbD f.pos =
      ((s.cfg.featSRMASK && (s.el == .el1) && s.inputs.srMaskingEnabled) &&
        (f.existsIn s.cfg s.tcr2El1 && s.inputs.tcr2Mask.get f)) := by
  unfold roMask
  cases s.cfg.featSRMASK && (s.el == .el1) && s.inputs.srMaskingEnabled
  · simp
  · simp only [if_true, Bool.true_and]
    exact maskOf_getLsbD_pos _ f

end Sys2Proof.Machine
end

