-- ==== Sys2Proof/Laws/Memory.lean ====
section
/-! SUPPORT. The memory laws: a byte written is read back, every other byte is left alone, and every operation keeps the
canonical form; the same for program text; and the 8-byte access over them (20_memory.md R61, R62). -/

namespace Sys2Proof.Machine

/-! ### The list -/

theorem lookupCell_removeCell (m : List Host.Cell) (a b : Nat) :
    lookupCell (removeCell m a) b = if b = a then none else lookupCell m b := by
  induction m with
  | nil => simp [removeCell, lookupCell]
  | cons c m ih =>
    obtain ⟨k, v⟩ := c
    unfold removeCell at ih ⊢
    by_cases hk : k = a
    · subst hk
      by_cases hb : b = k
      · simpa [hb, lookupCell] using ih
      · simpa [hb, lookupCell] using ih
    · by_cases hb : b = k
      · subst hb
        simp [hk, lookupCell]
      · simpa [hk, hb, lookupCell] using ih

theorem lookupCell_insertCell (m : List Host.Cell) (a : Nat) (v : Byte) (h : lookupCell m a = none) (b : Nat) :
    lookupCell (insertCell a v m) b = if b = a then some v else lookupCell m b := by
  induction m with
  | nil => simp [insertCell, lookupCell]
  | cons c m ih =>
    obtain ⟨k, w⟩ := c
    have hka : a ≠ k := by
      rintro rfl
      simp [lookupCell] at h
    have hm : lookupCell m a = none := by simpa [lookupCell, hka] using h
    by_cases hlt : a < k
    · simp [insertCell, hlt, lookupCell]
    · by_cases hbk : b = k
      · subst hbk
        simp [insertCell, hlt, lookupCell, Ne.symm hka]
      · simp [insertCell, hlt, lookupCell, hbk, ih hm]

theorem all_removeCell (p : Host.Cell → Bool) (m : List Host.Cell) (a : Nat) (h : m.all p = true) :
    (removeCell m a).all p = true := by
  simp only [List.all_eq_true, removeCell, List.mem_filter] at h ⊢
  exact fun c hc => h c hc.1

theorem all_insertCell (p : Host.Cell → Bool) (a : Nat) (v : Byte) (m : List Host.Cell) :
    (insertCell a v m).all p = (p (a, v) && m.all p) := by
  induction m with
  | nil => simp [insertCell]
  | cons c m ih =>
    by_cases hlt : a < c.1
    · simp [insertCell, hlt]
    · simp only [insertCell, hlt, if_false, List.all_cons, ih]
      cases p c <;> simp

theorem cellsRise_removeCell (m : List Host.Cell) (a : Nat) (h : cellsRise m = true) :
    cellsRise (removeCell m a) = true := by
  induction m with
  | nil => rfl
  | cons c m ih =>
    simp only [cellsRise, Bool.and_eq_true] at h
    have ih' := ih h.2
    unfold removeCell at ih' ⊢
    by_cases hc : c.1 = a
    · simpa [hc] using ih'
    · simp only [List.filter_cons, bne_iff_ne, ne_eq, hc, not_false_eq_true, if_true, cellsRise, Bool.and_eq_true]
      exact ⟨all_removeCell _ m a h.1, ih'⟩

theorem removeCell_no_address (m : List Host.Cell) (a : Nat) : (removeCell m a).all (fun c => c.1 != a) = true := by
  simp [removeCell]

theorem cellsRise_insertCell (a : Nat) (v : Byte) (m : List Host.Cell) (h : cellsRise m = true)
    (ha : m.all (fun c => c.1 != a) = true) : cellsRise (insertCell a v m) = true := by
  induction m with
  | nil => rfl
  | cons c m ih =>
    simp only [cellsRise, Bool.and_eq_true] at h
    simp only [List.all_cons, Bool.and_eq_true, bne_iff_ne, ne_eq] at ha
    by_cases hlt : a < c.1
    · simp only [insertCell, hlt, if_true, cellsRise, List.all_cons, Bool.and_eq_true, decide_eq_true_eq]
      refine ⟨⟨trivial, ?_⟩, h⟩
      simp only [List.all_eq_true, decide_eq_true_eq] at h ⊢
      exact fun d hd => Nat.lt_trans hlt (h.1 d hd)
    · simp only [insertCell, hlt, if_false, cellsRise, all_insertCell, Bool.and_eq_true, decide_eq_true_eq]
      have hca := ha.1
      exact ⟨⟨by omega, h.1⟩, ih h.2 ha.2⟩

/-! ### Bytes of memory -/

/-- A byte written is read back; every other byte is left alone. -/
theorem Memory.readByte_writeByte (m : Memory) (a b : Nat) (v : Byte) :
    Memory.readByte (Memory.writeByte m a v) b = if b = a then v else Memory.readByte m b := by
  unfold Memory.readByte Memory.writeByte
  by_cases hv : v = unlistedByte
  · rw [if_pos hv, lookupCell_removeCell]
    by_cases hb : b = a <;> simp [hb, hv]
  · rw [if_neg hv, lookupCell_insertCell _ _ _ (by simp [lookupCell_removeCell]), lookupCell_removeCell]
    by_cases hb : b = a <;> simp [hb]

/-- A write keeps the canonical form. -/
theorem Memory.wf_writeByte (m : Memory) (a : Nat) (v : Byte) (h : m.wf = true) (ha : a < 2 ^ 64) :
    (Memory.writeByte m a v).wf = true := by
  simp only [Memory.wf, cellsInSpace, Bool.and_eq_true] at h ⊢
  obtain ⟨⟨hr, hs⟩, hu⟩ := h
  unfold Memory.writeByte
  by_cases hv : v = unlistedByte
  · rw [if_pos hv]
    exact ⟨⟨cellsRise_removeCell m a hr, all_removeCell _ m a hs⟩, all_removeCell _ m a hu⟩
  · rw [if_neg hv, all_insertCell, all_insertCell]
    refine ⟨⟨cellsRise_insertCell a v _ (cellsRise_removeCell m a hr) (removeCell_no_address m a), ?_⟩, ?_⟩
    · simp only [Bool.and_eq_true, decide_eq_true_eq]
      exact ⟨ha, all_removeCell _ m a hs⟩
    · simp only [Bool.and_eq_true, bne_iff_ne, ne_eq]
      exact ⟨hv, all_removeCell _ m a hu⟩

/-! ### Program text -/

/-- A byte of text placed is found; every other byte is left alone. -/
theorem Text.lookup_put (m : Text) (a b : Nat) (v : Byte) :
    lookupCell (Text.put m a v) b = if b = a then some v else lookupCell m b := by
  unfold Text.put
  rw [lookupCell_insertCell _ _ _ (by simp [lookupCell_removeCell]), lookupCell_removeCell]
  by_cases hb : b = a <;> simp [hb]

/-- Placing text keeps the canonical form. -/
theorem Text.wf_put (m : Text) (a : Nat) (v : Byte) (h : m.wf = true) (ha : a < 2 ^ 64) : (Text.put m a v).wf = true := by
  simp only [Text.wf, cellsInSpace, Bool.and_eq_true] at h ⊢
  unfold Text.put
  rw [all_insertCell]
  refine ⟨cellsRise_insertCell a v _ (cellsRise_removeCell m a h.1) (removeCell_no_address m a), ?_⟩
  simp only [Bool.and_eq_true, decide_eq_true_eq]
  exact ⟨ha, all_removeCell _ m a h.2⟩

/-! ### The 8-byte access -/

theorem byteAddr_lt (a : Word) (k : Nat) : byteAddr a k < 2 ^ 64 :=
  (a + BitVec.ofNat 64 k).isLt

/-- The byte addresses of an access are distinct. -/
theorem byteAddr_inj (a : Word) (j k : Nat) (hj : j < 8) (hk : k < 8) : byteAddr a j = byteAddr a k ↔ j = k := by
  constructor
  · intro h
    simp only [byteAddr, BitVec.toNat_add, BitVec.toNat_ofNat] at h
    omega
  · rintro rfl
    rfl

/-- What storing the first `n` bytes leaves. -/
theorem readByte_storeBytes (be : Bool) (m : Memory) (a v : Word) (n b : Nat) (hn : n ≤ 8) :
    (∀ k, k < n → b = byteAddr a k → Memory.readByte (storeBytes be m a v n) b = valueByte v (byteRank be k)) ∧
      ((∀ k, k < n → b ≠ byteAddr a k) → Memory.readByte (storeBytes be m a v n) b = Memory.readByte m b) := by
  induction n with
  | zero => simp [storeBytes]
  | succ n ih =>
    have ih' := ih (by omega)
    simp only [storeBytes, Memory.readByte_writeByte]
    constructor
    · intro k hk hb
      by_cases hkn : k = n
      · simp [hkn ▸ hb, hkn]
      · have hne : b ≠ byteAddr a n := by
          rw [hb, Ne, byteAddr_inj a k n (by omega) (by omega)]
          exact hkn
        rw [if_neg hne]
        exact ih'.1 k (by omega) hb
    · intro h
      rw [if_neg (h n (by omega))]
      exact ih'.2 fun k hk => h k (by omega)

/-- MemWrite stores the byte of rank `byteRank be k` at offset `k`. -/
theorem readByte_memWrite8 (be : Bool) (m : Memory) (a v : Word) (k : Nat) (hk : k < 8) :
    Memory.readByte (memWrite8 be m a v) (byteAddr a k) = valueByte v (byteRank be k) :=
  (readByte_storeBytes be m a v 8 _ (Nat.le_refl 8)).1 k hk rfl

/-- MemWrite leaves every byte outside its eight alone. -/
theorem readByte_memWrite8_frame (be : Bool) (m : Memory) (a v : Word) (b : Nat)
    (h : ∀ k, k < 8 → b ≠ byteAddr a k) : Memory.readByte (memWrite8 be m a v) b = Memory.readByte m b :=
  (readByte_storeBytes be m a v 8 b (Nat.le_refl 8)).2 h

theorem storeBytes_wf (be : Bool) (m : Memory) (a v : Word) (n : Nat) (h : m.wf = true) :
    Memory.wf (storeBytes be m a v n) = true := by
  induction n with
  | zero => exact h
  | succ n ih => exact Memory.wf_writeByte _ _ _ ih (byteAddr_lt a n)

/-- MemWrite keeps the canonical form. -/
theorem memWrite8_wf (be : Bool) (m : Memory) (a v : Word) (h : m.wf = true) : (memWrite8 be m a v).wf = true :=
  storeBytes_wf be m a v 8 h

theorem byteRank_lt (be : Bool) (k : Nat) (hk : k < 8) : byteRank be k < 8 := by
  cases be <;> simp [byteRank] <;> omega

theorem byteRank_byteRank (be : Bool) (k : Nat) (hk : k < 8) : byteRank be (byteRank be k) = k := by
  cases be <;> simp [byteRank]
  omega

theorem valueOfBytes_congr (b c : Nat → Byte) (h : ∀ k, k < 8 → b k = c k) : valueOfBytes b = valueOfBytes c := by
  simp only [valueOfBytes, h 0 (by omega), h 1 (by omega), h 2 (by omega), h 3 (by omega), h 4 (by omega), h 5 (by omega),
    h 6 (by omega), h 7 (by omega)]

/-- The bytes of a value make it up. -/
theorem valueOfBytes_valueByte (v : Word) : valueOfBytes (valueByte v) = v := by
  apply BitVec.eq_of_getLsbD_eq
  intro i hi
  have h8 : i / 8 < 8 := by omega
  simp only [valueOfBytes, valueByte, BitVec.getLsbD_append, BitVec.getLsbD_extractLsb']
  interval_cases i <;> simp

/-- MemRead after MemWrite at the same address gives the value written, in either byte order (20_memory.md R62). -/
theorem memRead8_memWrite8 (be : Bool) (m : Memory) (a v : Word) : memRead8 be (memWrite8 be m a v) a = v := by
  rw [memRead8, valueOfBytes_congr _ (valueByte v), valueOfBytes_valueByte]
  intro k hk
  rw [readByte_memWrite8 be m a v _ (byteRank_lt be k hk), byteRank_byteRank be k hk]

/-! ### Words of text -/

theorem placeBytes_lookup (t : Text) (a : Word) (w : InstrWord) (n b : Nat) (hn : n ≤ 4) :
    (∀ k, k < n → b = byteAddr a k → lookupCell (placeBytes t a w n) b = some (wordByte w k)) ∧
      ((∀ k, k < n → b ≠ byteAddr a k) → lookupCell (placeBytes t a w n) b = lookupCell t b) := by
  induction n with
  | zero => simp [placeBytes]
  | succ n ih =>
    have ih' := ih (by omega)
    simp only [placeBytes, Text.lookup_put]
    constructor
    · intro k hk hb
      by_cases hkn : k = n
      · simp [hkn ▸ hb, hkn]
      · have hne : b ≠ byteAddr a n := by
          rw [hb, Ne, byteAddr_inj a k n (by omega) (by omega)]
          exact hkn
        rw [if_neg hne]
        exact ih'.1 k (by omega) hb
    · intro h
      rw [if_neg (h n (by omega))]
      exact ih'.2 fun k hk => h k (by omega)

/-- A word placed is found, byte by byte, least significant first (30_encoding.md R82). -/
theorem placeWord_lookup (t : Text) (a : Word) (w : InstrWord) (k : Nat) (hk : k < 4) :
    lookupCell (placeWord t a w) (byteAddr a k) = some (wordByte w k) :=
  (placeBytes_lookup t a w 4 _ (Nat.le_refl 4)).1 k hk rfl

theorem placeBytes_wf (t : Text) (a : Word) (w : InstrWord) (n : Nat) (h : t.wf = true) :
    (placeBytes t a w n).wf = true := by
  induction n with
  | zero => exact h
  | succ n ih => exact Text.wf_put _ _ _ ih (byteAddr_lt a n)

/-- Placing a word keeps the canonical form. -/
theorem placeWord_wf (t : Text) (a : Word) (w : InstrWord) (h : t.wf = true) : (placeWord t a w).wf = true :=
  placeBytes_wf t a w 4 h

/-- The bytes of a word make it up. -/
theorem wordOfBytes_wordByte (w : InstrWord) :
    wordOfBytes (wordByte w 0) (wordByte w 1) (wordByte w 2) (wordByte w 3) = w := by
  apply BitVec.eq_of_getLsbD_eq
  intro i hi
  simp only [wordOfBytes, wordByte, BitVec.getLsbD_append, BitVec.getLsbD_extractLsb']
  interval_cases i <;> simp

end Sys2Proof.Machine
end

