-- ==== Sys2Proof/Laws/State.lean ====
section
/-! SUPPORT. Every update of the state, field by field: one lemma per field per update, so that no later proof unfolds a record
update. -/

namespace Sys2Proof.Machine

variable (s : State)

/-! ### State.writeX -/

@[simp] theorem State.writeX_cfg (t : Nat) (v : Word) : (s.writeX t v).cfg = s.cfg := rfl

@[simp] theorem State.writeX_inputs (t : Nat) (v : Word) : (s.writeX t v).inputs = s.inputs := rfl

@[simp] theorem State.writeX_el (t : Nat) (v : Word) : (s.writeX t v).el = s.el := rfl

@[simp] theorem State.writeX_pc (t : Nat) (v : Word) : (s.writeX t v).pc = s.pc := rfl

@[simp] theorem State.writeX_x (t : Nat) (v : Word) : (s.writeX t v).x = s.x.setIfInBounds t v := rfl

@[simp] theorem State.writeX_tcr2El1 (t : Nat) (v : Word) : (s.writeX t v).tcr2El1 = s.tcr2El1 := rfl

@[simp] theorem State.writeX_tcr2El2 (t : Nat) (v : Word) : (s.writeX t v).tcr2El2 = s.tcr2El2 := rfl

@[simp] theorem State.writeX_mem (t : Nat) (v : Word) : (s.writeX t v).mem = s.mem := rfl

@[simp] theorem State.writeX_text (t : Nat) (v : Word) : (s.writeX t v).text = s.text := rfl

@[simp] theorem State.writeX_outstanding (t : Nat) (v : Word) : (s.writeX t v).outstanding = s.outstanding := rfl

@[simp] theorem State.writeX_nvMemEvents (t : Nat) (v : Word) : (s.writeX t v).nvMemEvents = s.nvMemEvents := rfl

@[simp] theorem State.writeX_unsynced (t : Nat) (v : Word) : (s.writeX t v).unsynced = s.unsynced := rfl

@[simp] theorem State.writeX_unsyncedEff (t : Nat) (v : Word) : (s.writeX t v).unsyncedEff = s.unsyncedEff := rfl

@[simp] theorem State.writeX_cachedEff (t : Nat) (v : Word) : (s.writeX t v).cachedEff = s.cachedEff := rfl

@[simp] theorem State.writeX_schedule (t : Nat) (v : Word) : (s.writeX t v).schedule = s.schedule := rfl

/-! ### State.advance -/

@[simp] theorem State.advance_cfg : (s.advance).cfg = s.cfg := rfl

@[simp] theorem State.advance_inputs : (s.advance).inputs = s.inputs := rfl

@[simp] theorem State.advance_el : (s.advance).el = s.el := rfl

@[simp] theorem State.advance_pc : (s.advance).pc = s.pc + 4 := rfl

@[simp] theorem State.advance_x : (s.advance).x = s.x := rfl

@[simp] theorem State.advance_tcr2El1 : (s.advance).tcr2El1 = s.tcr2El1 := rfl

@[simp] theorem State.advance_tcr2El2 : (s.advance).tcr2El2 = s.tcr2El2 := rfl

@[simp] theorem State.advance_mem : (s.advance).mem = s.mem := rfl

@[simp] theorem State.advance_text : (s.advance).text = s.text := rfl

@[simp] theorem State.advance_outstanding : (s.advance).outstanding = s.outstanding := rfl

@[simp] theorem State.advance_nvMemEvents : (s.advance).nvMemEvents = s.nvMemEvents := rfl

@[simp] theorem State.advance_unsynced : (s.advance).unsynced = s.unsynced := rfl

@[simp] theorem State.advance_unsyncedEff : (s.advance).unsyncedEff = s.unsyncedEff := rfl

@[simp] theorem State.advance_cachedEff : (s.advance).cachedEff = s.cachedEff := rfl

@[simp] theorem State.advance_schedule : (s.advance).schedule = s.schedule := rfl

/-! ### State.putTcr2El1 -/

@[simp] theorem State.putTcr2El1_cfg (v : Word) : (s.putTcr2El1 v).cfg = s.cfg := rfl

@[simp] theorem State.putTcr2El1_inputs (v : Word) : (s.putTcr2El1 v).inputs = s.inputs := rfl

@[simp] theorem State.putTcr2El1_el (v : Word) : (s.putTcr2El1 v).el = s.el := rfl

@[simp] theorem State.putTcr2El1_pc (v : Word) : (s.putTcr2El1 v).pc = s.pc := rfl

@[simp] theorem State.putTcr2El1_x (v : Word) : (s.putTcr2El1 v).x = s.x := rfl

@[simp] theorem State.putTcr2El1_tcr2El1 (v : Word) : (s.putTcr2El1 v).tcr2El1 = v := rfl

@[simp] theorem State.putTcr2El1_tcr2El2 (v : Word) : (s.putTcr2El1 v).tcr2El2 = s.tcr2El2 := rfl

@[simp] theorem State.putTcr2El1_mem (v : Word) : (s.putTcr2El1 v).mem = s.mem := rfl

@[simp] theorem State.putTcr2El1_text (v : Word) : (s.putTcr2El1 v).text = s.text := rfl

@[simp] theorem State.putTcr2El1_outstanding (v : Word) : (s.putTcr2El1 v).outstanding = s.outstanding := rfl

@[simp] theorem State.putTcr2El1_nvMemEvents (v : Word) : (s.putTcr2El1 v).nvMemEvents = s.nvMemEvents := rfl

@[simp] theorem State.putTcr2El1_unsynced (v : Word) :
    (s.putTcr2El1 v).unsynced = rememberAll (changedValues [s.tcr2El1] v) s.unsynced := rfl

@[simp] theorem State.putTcr2El1_unsyncedEff (v : Word) : (s.putTcr2El1 v).unsyncedEff =
    rememberAll ((changedValues [s.tcr2El1] v).map (effective s.cfg s.inputs)) s.unsyncedEff := rfl

@[simp] theorem State.putTcr2El1_cachedEff (v : Word) : (s.putTcr2El1 v).cachedEff = remember s.eff s.cachedEff := rfl

@[simp] theorem State.putTcr2El1_schedule (v : Word) : (s.putTcr2El1 v).schedule = s.schedule := rfl

/-! ### State.putTcr2El2 -/

@[simp] theorem State.putTcr2El2_cfg (v : Word) : (s.putTcr2El2 v).cfg = s.cfg := rfl

@[simp] theorem State.putTcr2El2_inputs (v : Word) : (s.putTcr2El2 v).inputs = s.inputs := rfl

@[simp] theorem State.putTcr2El2_el (v : Word) : (s.putTcr2El2 v).el = s.el := rfl

@[simp] theorem State.putTcr2El2_pc (v : Word) : (s.putTcr2El2 v).pc = s.pc := rfl

@[simp] theorem State.putTcr2El2_x (v : Word) : (s.putTcr2El2 v).x = s.x := rfl

@[simp] theorem State.putTcr2El2_tcr2El1 (v : Word) : (s.putTcr2El2 v).tcr2El1 = s.tcr2El1 := rfl

@[simp] theorem State.putTcr2El2_tcr2El2 (v : Word) : (s.putTcr2El2 v).tcr2El2 = v := rfl

@[simp] theorem State.putTcr2El2_mem (v : Word) : (s.putTcr2El2 v).mem = s.mem := rfl

@[simp] theorem State.putTcr2El2_text (v : Word) : (s.putTcr2El2 v).text = s.text := rfl

@[simp] theorem State.putTcr2El2_outstanding (v : Word) : (s.putTcr2El2 v).outstanding = s.outstanding := rfl

@[simp] theorem State.putTcr2El2_nvMemEvents (v : Word) : (s.putTcr2El2 v).nvMemEvents = s.nvMemEvents := rfl

@[simp] theorem State.putTcr2El2_unsynced (v : Word) : (s.putTcr2El2 v).unsynced = s.unsynced := rfl

@[simp] theorem State.putTcr2El2_unsyncedEff (v : Word) : (s.putTcr2El2 v).unsyncedEff = s.unsyncedEff := rfl

@[simp] theorem State.putTcr2El2_cachedEff (v : Word) : (s.putTcr2El2 v).cachedEff = s.cachedEff := rfl

@[simp] theorem State.putTcr2El2_schedule (v : Word) : (s.putTcr2El2 v).schedule = s.schedule := rfl

/-! ### State.putNvMem -/

@[simp] theorem State.putNvMem_cfg (v : Word) : (s.putNvMem v).cfg = s.cfg := rfl

@[simp] theorem State.putNvMem_inputs (v : Word) : (s.putNvMem v).inputs = s.inputs := rfl

@[simp] theorem State.putNvMem_el (v : Word) : (s.putNvMem v).el = s.el := rfl

@[simp] theorem State.putNvMem_pc (v : Word) : (s.putNvMem v).pc = s.pc := rfl

@[simp] theorem State.putNvMem_x (v : Word) : (s.putNvMem v).x = s.x := rfl

@[simp] theorem State.putNvMem_tcr2El1 (v : Word) : (s.putNvMem v).tcr2El1 = s.tcr2El1 := rfl

@[simp] theorem State.putNvMem_tcr2El2 (v : Word) : (s.putNvMem v).tcr2El2 = s.tcr2El2 := rfl

@[simp] theorem State.putNvMem_mem (v : Word) : (s.putNvMem v).mem = memWrite8 s.cfg.nvMemBigEndian s.mem s.nvMemAddr v := rfl

@[simp] theorem State.putNvMem_text (v : Word) : (s.putNvMem v).text = s.text := rfl

@[simp] theorem State.putNvMem_outstanding (v : Word) : (s.putNvMem v).outstanding = s.outstanding := rfl

@[simp] theorem State.putNvMem_nvMemEvents (v : Word) : (s.putNvMem v).nvMemEvents = s.nvMemEvents := rfl

@[simp] theorem State.putNvMem_unsynced (v : Word) : (s.putNvMem v).unsynced = s.unsynced := rfl

@[simp] theorem State.putNvMem_unsyncedEff (v : Word) : (s.putNvMem v).unsyncedEff = s.unsyncedEff := rfl

@[simp] theorem State.putNvMem_cachedEff (v : Word) : (s.putNvMem v).cachedEff = s.cachedEff := rfl

@[simp] theorem State.putNvMem_schedule (v : Word) : (s.putNvMem v).schedule = s.schedule := rfl

/-! ### State.recordNvMem -/

@[simp] theorem State.recordNvMem_cfg (k : NvMemKind) (v : Word) : (s.recordNvMem k v).cfg = s.cfg := rfl

@[simp] theorem State.recordNvMem_inputs (k : NvMemKind) (v : Word) : (s.recordNvMem k v).inputs = s.inputs := rfl

@[simp] theorem State.recordNvMem_el (k : NvMemKind) (v : Word) : (s.recordNvMem k v).el = s.el := rfl

@[simp] theorem State.recordNvMem_pc (k : NvMemKind) (v : Word) : (s.recordNvMem k v).pc = s.pc := rfl

@[simp] theorem State.recordNvMem_x (k : NvMemKind) (v : Word) : (s.recordNvMem k v).x = s.x := rfl

@[simp] theorem State.recordNvMem_tcr2El1 (k : NvMemKind) (v : Word) : (s.recordNvMem k v).tcr2El1 = s.tcr2El1 := rfl

@[simp] theorem State.recordNvMem_tcr2El2 (k : NvMemKind) (v : Word) : (s.recordNvMem k v).tcr2El2 = s.tcr2El2 := rfl

@[simp] theorem State.recordNvMem_mem (k : NvMemKind) (v : Word) : (s.recordNvMem k v).mem = s.mem := rfl

@[simp] theorem State.recordNvMem_text (k : NvMemKind) (v : Word) : (s.recordNvMem k v).text = s.text := rfl

@[simp] theorem State.recordNvMem_outstanding (k : NvMemKind) (v : Word) : (s.recordNvMem k v).outstanding = s.outstanding := rfl

@[simp] theorem State.recordNvMem_nvMemEvents (k : NvMemKind) (v : Word) :
    (s.recordNvMem k v).nvMemEvents = s.nvMemEvents ++ [{ kind := k, addr := s.nvMemAddr, value := v }] := rfl

@[simp] theorem State.recordNvMem_unsynced (k : NvMemKind) (v : Word) : (s.recordNvMem k v).unsynced = s.unsynced := rfl

@[simp] theorem State.recordNvMem_unsyncedEff (k : NvMemKind) (v : Word) : (s.recordNvMem k v).unsyncedEff = s.unsyncedEff := rfl

@[simp] theorem State.recordNvMem_cachedEff (k : NvMemKind) (v : Word) : (s.recordNvMem k v).cachedEff = s.cachedEff := rfl

@[simp] theorem State.recordNvMem_schedule (k : NvMemKind) (v : Word) : (s.recordNvMem k v).schedule = s.schedule := rfl

/-! ### enqueueLate -/

@[simp] theorem enqueueLate_cfg (i : Instr) : (enqueueLate i s).cfg = s.cfg := rfl

@[simp] theorem enqueueLate_inputs (i : Instr) : (enqueueLate i s).inputs = s.inputs := rfl

@[simp] theorem enqueueLate_el (i : Instr) : (enqueueLate i s).el = s.el := rfl

@[simp] theorem enqueueLate_pc (i : Instr) : (enqueueLate i s).pc = s.pc + 4 := rfl

@[simp] theorem enqueueLate_x (i : Instr) : (enqueueLate i s).x = s.x := rfl

@[simp] theorem enqueueLate_tcr2El1 (i : Instr) : (enqueueLate i s).tcr2El1 = s.tcr2El1 := rfl

@[simp] theorem enqueueLate_tcr2El2 (i : Instr) : (enqueueLate i s).tcr2El2 = s.tcr2El2 := rfl

@[simp] theorem enqueueLate_mem (i : Instr) : (enqueueLate i s).mem = s.mem := rfl

@[simp] theorem enqueueLate_text (i : Instr) : (enqueueLate i s).text = s.text := rfl

@[simp] theorem enqueueLate_outstanding (i : Instr) : (enqueueLate i s).outstanding = s.outstanding ++ [{ name := i.accessor, effect := lateEffect i s }] := rfl

@[simp] theorem enqueueLate_nvMemEvents (i : Instr) : (enqueueLate i s).nvMemEvents = s.nvMemEvents := rfl

@[simp] theorem enqueueLate_unsynced (i : Instr) : (enqueueLate i s).unsynced = rememberAll (lateWindow i s) s.unsynced := rfl

@[simp] theorem enqueueLate_unsyncedEff (i : Instr) : (enqueueLate i s).unsyncedEff =
    rememberAll ((lateWindow i s).map (effective s.cfg s.inputs)) s.unsyncedEff := rfl

@[simp] theorem enqueueLate_cachedEff (i : Instr) : (enqueueLate i s).cachedEff = s.cachedEff := rfl

@[simp] theorem enqueueLate_schedule (i : Instr) : (enqueueLate i s).schedule = s.schedule := rfl

/-! ### setInputs -/

@[simp] theorem setInputs_cfg (n : Inputs) : (setInputs n s).cfg = s.cfg := rfl

@[simp] theorem setInputs_inputs (n : Inputs) : (setInputs n s).inputs = n := rfl

@[simp] theorem setInputs_el (n : Inputs) : (setInputs n s).el = s.el := rfl

@[simp] theorem setInputs_pc (n : Inputs) : (setInputs n s).pc = s.pc := rfl

@[simp] theorem setInputs_x (n : Inputs) : (setInputs n s).x = s.x := rfl

@[simp] theorem setInputs_tcr2El1 (n : Inputs) : (setInputs n s).tcr2El1 = s.tcr2El1 := rfl

@[simp] theorem setInputs_tcr2El2 (n : Inputs) : (setInputs n s).tcr2El2 = s.tcr2El2 := rfl

@[simp] theorem setInputs_mem (n : Inputs) : (setInputs n s).mem = s.mem := rfl

@[simp] theorem setInputs_text (n : Inputs) : (setInputs n s).text = s.text := rfl

@[simp] theorem setInputs_outstanding (n : Inputs) : (setInputs n s).outstanding = s.outstanding := rfl

@[simp] theorem setInputs_nvMemEvents (n : Inputs) : (setInputs n s).nvMemEvents = s.nvMemEvents := rfl

@[simp] theorem setInputs_unsynced (n : Inputs) : (setInputs n s).unsynced = s.unsynced := rfl

@[simp] theorem setInputs_unsyncedEff (n : Inputs) : (setInputs n s).unsyncedEff = s.unsyncedEff := rfl

@[simp] theorem setInputs_cachedEff (n : Inputs) : (setInputs n s).cachedEff = rememberAll s.effMayHold s.cachedEff := rfl

@[simp] theorem setInputs_schedule (n : Inputs) : (setInputs n s).schedule = s.schedule := rfl

/-! ### agentStore -/

@[simp] theorem agentStore_cfg (a : Word) (v : Byte) : (agentStore a v s).cfg = s.cfg := rfl

@[simp] theorem agentStore_inputs (a : Word) (v : Byte) : (agentStore a v s).inputs = s.inputs := rfl

@[simp] theorem agentStore_el (a : Word) (v : Byte) : (agentStore a v s).el = s.el := rfl

@[simp] theorem agentStore_pc (a : Word) (v : Byte) : (agentStore a v s).pc = s.pc := rfl

@[simp] theorem agentStore_x (a : Word) (v : Byte) : (agentStore a v s).x = s.x := rfl

@[simp] theorem agentStore_tcr2El1 (a : Word) (v : Byte) : (agentStore a v s).tcr2El1 = s.tcr2El1 := rfl

@[simp] theorem agentStore_tcr2El2 (a : Word) (v : Byte) : (agentStore a v s).tcr2El2 = s.tcr2El2 := rfl

@[simp] theorem agentStore_mem (a : Word) (v : Byte) : (agentStore a v s).mem = Memory.writeByte s.mem a.toNat v := rfl

@[simp] theorem agentStore_text (a : Word) (v : Byte) : (agentStore a v s).text = s.text := rfl

@[simp] theorem agentStore_outstanding (a : Word) (v : Byte) : (agentStore a v s).outstanding = s.outstanding := rfl

@[simp] theorem agentStore_nvMemEvents (a : Word) (v : Byte) : (agentStore a v s).nvMemEvents = s.nvMemEvents := rfl

@[simp] theorem agentStore_unsynced (a : Word) (v : Byte) : (agentStore a v s).unsynced = s.unsynced := rfl

@[simp] theorem agentStore_unsyncedEff (a : Word) (v : Byte) : (agentStore a v s).unsyncedEff = s.unsyncedEff := rfl

@[simp] theorem agentStore_cachedEff (a : Word) (v : Byte) : (agentStore a v s).cachedEff = s.cachedEff := rfl

@[simp] theorem agentStore_schedule (a : Word) (v : Byte) : (agentStore a v s).schedule = s.schedule := rfl

/-! ### dropCached -/

@[simp] theorem dropCached_cfg : (dropCached s).cfg = s.cfg := rfl

@[simp] theorem dropCached_inputs : (dropCached s).inputs = s.inputs := rfl

@[simp] theorem dropCached_el : (dropCached s).el = s.el := rfl

@[simp] theorem dropCached_pc : (dropCached s).pc = s.pc := rfl

@[simp] theorem dropCached_x : (dropCached s).x = s.x := rfl

@[simp] theorem dropCached_tcr2El1 : (dropCached s).tcr2El1 = s.tcr2El1 := rfl

@[simp] theorem dropCached_tcr2El2 : (dropCached s).tcr2El2 = s.tcr2El2 := rfl

@[simp] theorem dropCached_mem : (dropCached s).mem = s.mem := rfl

@[simp] theorem dropCached_text : (dropCached s).text = s.text := rfl

@[simp] theorem dropCached_outstanding : (dropCached s).outstanding = s.outstanding := rfl

@[simp] theorem dropCached_nvMemEvents : (dropCached s).nvMemEvents = s.nvMemEvents := rfl

@[simp] theorem dropCached_unsynced : (dropCached s).unsynced = s.unsynced := rfl

@[simp] theorem dropCached_unsyncedEff : (dropCached s).unsyncedEff = s.unsyncedEff := rfl

@[simp] theorem dropCached_cachedEff : (dropCached s).cachedEff = [] := rfl

@[simp] theorem dropCached_schedule : (dropCached s).schedule = s.schedule := rfl

/-! ### warmReset -/

@[simp] theorem warmReset_cfg (d : ResetDraw) : (warmReset d s).cfg = s.cfg := rfl

@[simp] theorem warmReset_inputs (d : ResetDraw) : (warmReset d s).inputs = s.inputs := rfl

@[simp] theorem warmReset_el (d : ResetDraw) : (warmReset d s).el = s.cfg.resetEL := rfl

@[simp] theorem warmReset_pc (d : ResetDraw) : (warmReset d s).pc = s.cfg.resetPC := rfl

@[simp] theorem warmReset_x (d : ResetDraw) : (warmReset d s).x = d.x := rfl

@[simp] theorem warmReset_tcr2El1 (d : ResetDraw) : (warmReset d s).tcr2El1 = warmResetValue s.cfg d.u := rfl

@[simp] theorem warmReset_tcr2El2 (d : ResetDraw) : (warmReset d s).tcr2El2 = d.tcr2El2 := rfl

@[simp] theorem warmReset_mem (d : ResetDraw) : (warmReset d s).mem = s.mem := rfl

@[simp] theorem warmReset_text (d : ResetDraw) : (warmReset d s).text = s.text := rfl

@[simp] theorem warmReset_outstanding (d : ResetDraw) : (warmReset d s).outstanding = [] := rfl

@[simp] theorem warmReset_nvMemEvents (d : ResetDraw) : (warmReset d s).nvMemEvents = s.nvMemEvents := rfl

@[simp] theorem warmReset_unsynced (d : ResetDraw) : (warmReset d s).unsynced = s.unsynced := rfl

@[simp] theorem warmReset_unsyncedEff (d : ResetDraw) : (warmReset d s).unsyncedEff = s.unsyncedEff := rfl

@[simp] theorem warmReset_cachedEff (d : ResetDraw) : (warmReset d s).cachedEff = rememberAll s.effMayHold s.cachedEff := rfl

@[simp] theorem warmReset_schedule (d : ResetDraw) : (warmReset d s).schedule = s.schedule := rfl


/-- Advancing pc moves no effective value. -/
@[simp] theorem State.advance_eff : s.advance.eff = s.eff := rfl

@[simp] theorem State.writeX_eff (t : Nat) (v : Word) : (s.writeX t v).eff = s.eff := rfl

@[simp] theorem State.putTcr2El2_eff (v : Word) : (s.putTcr2El2 v).eff = s.eff := rfl

@[simp] theorem State.recordNvMem_eff (k : NvMemKind) (v : Word) : (s.recordNvMem k v).eff = s.eff := rfl

@[simp] theorem State.putNvMem_eff (v : Word) : (s.putNvMem v).eff = s.eff := rfl

/-- The effective values after a write are those of the value written (10_state.md R43). -/
@[simp] theorem State.putTcr2El1_eff (v : Word) : (s.putTcr2El1 v).eff = effective s.cfg s.inputs v := rfl

/-- The effective values after the inputs change are the stored value's under the new inputs (70 R168). -/
@[simp] theorem setInputs_eff (n : Inputs) : (setInputs n s).eff = effective s.cfg n s.tcr2El1 := rfl

@[simp] theorem State.advance_nvMemAddr : s.advance.nvMemAddr = s.nvMemAddr := rfl

@[simp] theorem State.putNvMem_nvMemAddr (v : Word) : (s.putNvMem v).nvMemAddr = s.nvMemAddr := rfl

@[simp] theorem State.writeX_nvMemAddr (t : Nat) (v : Word) : (s.writeX t v).nvMemAddr = s.nvMemAddr := rfl

@[simp] theorem State.advance_readX (u : Nat) : s.advance.readX u = s.readX u := rfl

@[simp] theorem State.putTcr2El1_readX (v : Word) (u : Nat) : (s.putTcr2El1 v).readX u = s.readX u := rfl

@[simp] theorem State.putTcr2El2_readX (v : Word) (u : Nat) : (s.putTcr2El2 v).readX u = s.readX u := rfl

@[simp] theorem State.recordNvMem_readX (k : NvMemKind) (v : Word) (u : Nat) :
    (s.recordNvMem k v).readX u = s.readX u := rfl

@[simp] theorem State.putNvMem_readX (v : Word) (u : Nat) : (s.putNvMem v).readX u = s.readX u := rfl

/-- A register reads back what was written to it, and the zero register reads 0 (10_state.md R47). -/
theorem State.writeX_readX_self (t : Nat) (v : Word) : (s.writeX t v).readX t = if t < 31 then v else 0 := by
  by_cases h : t < 31 <;> simp [State.writeX, State.readX, h]

/-- A write leaves every other register alone. -/
theorem State.writeX_readX_of_ne (t u : Nat) (v : Word) (h : u ≠ t) : (s.writeX t v).readX u = s.readX u := by
  simp [State.writeX, State.readX, Ne.symm h]

/-- A write to the zero register changes nothing (10_state.md R47). -/
theorem State.writeX_zero_register (t : Nat) (v : Word) (h : 31 ≤ t) : s.writeX t v = s := by
  have hx : s.x.setIfInBounds t v = s.x := Vector.setIfInBounds_eq_of_size_le h
  rw [State.writeX, hx]

/-- The zero register reads 0 (10_state.md R47). -/
theorem State.readX_zero_register (t : Nat) (h : 31 ≤ t) : s.readX t = 0 := by
  have ht : ¬ t < 31 := by omega
  simp [State.readX, ht]

/-- What a list remembers. -/
theorem mem_remember {α : Type} [DecidableEq α] (a b : α) (l : List α) : b ∈ remember a l ↔ b = a ∨ b ∈ l := by
  unfold remember
  split
  · next h => exact ⟨Or.inr, fun hb => hb.elim (fun e => e ▸ h) id⟩
  · simp

/-- Remembering keeps each value once. -/
theorem nodup_remember {α : Type} [DecidableEq α] (a : α) (l : List α) (h : l.Nodup) : (remember a l).Nodup := by
  unfold remember
  split
  · exact h
  · next ha => exact List.nodup_cons.mpr ⟨ha, h⟩

theorem mem_rememberAll {α : Type} [DecidableEq α] (as : List α) (b : α) (l : List α) :
    b ∈ rememberAll as l ↔ b ∈ as ∨ b ∈ l := by
  induction as with
  | nil => simp [rememberAll]
  | cons a as ih =>
    simp only [rememberAll, List.foldr_cons, mem_remember, List.mem_cons, or_assoc] at ih ⊢
    rw [ih]

theorem nodup_rememberAll {α : Type} [DecidableEq α] (as l : List α) (h : l.Nodup) : (rememberAll as l).Nodup := by
  induction as with
  | nil => exact h
  | cons a as ih => exact nodup_remember a _ ih

/-- What a list already remembers adds nothing. -/
theorem rememberAll_of_subset {α : Type} [DecidableEq α] (as l : List α) (h : ∀ a ∈ as, a ∈ l) : rememberAll as l = l := by
  induction as with
  | nil => rfl
  | cons a as ih =>
    have ht : rememberAll as l = l := ih fun b hb => h b (List.mem_cons_of_mem a hb)
    simp only [rememberAll, List.foldr_cons] at ht ⊢
    rw [ht, remember, if_pos (h a List.mem_cons_self)]

/-- The values the window of 70 R167 opens for: each old one that differs, and with it the new one. -/
theorem mem_changedValues (olds : List Word) (v w : Word) :
    w ∈ changedValues olds v ↔ ∃ o ∈ olds, v ≠ o ∧ (w = o ∨ w = v) := by
  have h : w ∈ changedValues olds v ↔ olds.filter (· != v) ≠ [] ∧ (w = v ∨ w ∈ olds.filter (· != v)) := by
    unfold changedValues
    split <;> simp_all
  rw [h]
  simp only [ne_eq, List.filter_eq_nil_iff, bne_iff_ne, List.mem_filter]
  grind

/-- Where nothing the MSR may find differs from what it stores, it opens no window. -/
theorem changedValues_self (v : Word) : changedValues [v] v = [] := by
  simp [changedValues]

/-- What a write adds to the stored values of the window: the old and the new one, where it changes the register (70 R167). -/
theorem mem_putTcr2El1_unsynced (v w : Word) :
    w ∈ (s.putTcr2El1 v).unsynced ↔ (v ≠ s.tcr2El1 ∧ (w = s.tcr2El1 ∨ w = v)) ∨ w ∈ s.unsynced := by
  simp [mem_rememberAll, mem_changedValues]

/-- What a write adds to the effective values of the window: the old and the new ones, where it changes the register (70
R167). -/
theorem mem_putTcr2El1_unsyncedEff (v : Word) (e : FieldBits) :
    e ∈ (s.putTcr2El1 v).unsyncedEff ↔
      (v ≠ s.tcr2El1 ∧ (e = s.eff ∨ e = (s.putTcr2El1 v).eff)) ∨ e ∈ s.unsyncedEff := by
  have hn : (s.putTcr2El1 v).eff = effective s.cfg s.inputs v := rfl
  have ho : s.eff = effective s.cfg s.inputs s.tcr2El1 := rfl
  simp only [State.putTcr2El1_unsyncedEff, mem_rememberAll, List.mem_map, mem_changedValues, List.mem_singleton, hn, ho]
  grind

/-- The values TCR2_EL1 may be said to hold: the one it holds and those outstanding writes will store (20_memory.md R68). -/
theorem mem_mayHold (w : Word) : w ∈ s.mayHold ↔ w = s.tcr2El1 ∨ ∃ d ∈ s.outstanding, d.effect = .write w := by
  simp only [State.mayHold, List.mem_cons, List.mem_filterMap]
  refine or_congr_right (exists_congr fun d => and_congr_right fun _ => ?_)
  cases d.effect <;> simp

/-- What an MSR executed late adds to the window: its new value and each one it may find (70 R167; 20_memory.md R68). -/
theorem mem_lateWindow (i : Instr) (v w : Word) (h : lateEffect i s = .write v) :
    w ∈ lateWindow i s ↔ ∃ o ∈ s.mayHold, v ≠ o ∧ (w = o ∨ w = v) := by
  rw [lateWindow, h]
  exact mem_changedValues _ _ _

/-- The value TCR2_EL1 holds is among those it may be said to hold. -/
theorem eff_mem_effMayHold : s.eff ∈ s.effMayHold :=
  List.mem_cons_self

/-- A write keeps each history free of repeats. -/
theorem nodup_putTcr2El1 (v : Word) (h1 : s.unsynced.Nodup) (h2 : s.unsyncedEff.Nodup) (h3 : s.cachedEff.Nodup) :
    (s.putTcr2El1 v).unsynced.Nodup ∧ (s.putTcr2El1 v).unsyncedEff.Nodup ∧ (s.putTcr2El1 v).cachedEff.Nodup :=
  ⟨nodup_rememberAll _ _ h1, nodup_rememberAll _ _ h2, nodup_remember _ _ h3⟩

end Sys2Proof.Machine
end

