-- ==== Sys2Proof/Laws/Ops.lean ====
section
/-! SUPPORT. What each shared operation can do, said once: the completion of an MRS and of an MSR, the six meanings over them,
and the operations that perform outstanding accesses. -/

namespace Sys2Proof.Machine

/-- An MRS that answers a next state read one of the three places (40 R100). -/
theorem completeRead_next (i : Instr) (t : Nat) (v : Verdict) (s s' : State) (h : completeRead i t v s = .next s') :
    (v = .go .tcr2El1 ∧ s' = (s.writeX t s.tcr2El1).advance) ∨
      (v = .go .tcr2El2 ∧ s' = (s.writeX t s.tcr2El2).advance) ∨
      (v = .go .nvMem ∧ s.nvMemAligned = true ∧ s.nvMemAdmitted = true ∧
        s' = ((s.writeX t s.nvMemValue).recordNvMem .read s.nvMemValue).advance) := by
  unfold completeRead completeNvMemRead raiseUndefined raiseTrap at h
  split at h
  · cases h
  · cases h
  · cases h
  · cases h
    exact .inl ⟨rfl, rfl⟩
  · cases h
    exact .inr (.inl ⟨rfl, rfl⟩)
  · split at h
    · cases h
    · split at h
      · cases h
      · next h1 h2 =>
        cases h
        exact .inr (.inr ⟨rfl, by simpa using h1, by simpa using h2, rfl⟩)

/-- An MSR that answers a next state wrote one of the three places (40 R100). -/
theorem completeWrite_next (i : Instr) (t : Nat) (ro : Word) (v : Verdict) (s s' : State)
    (h : completeWrite i t ro v s = .next s') :
    (v = .go .tcr2El1 ∧ s' = (s.putTcr2El1 (mergeTcr2 s.cfg s.tcr2El1 (s.readX t) ro)).advance) ∨
      (v = .go .tcr2El2 ∧ s' = (s.putTcr2El2 (s.readX t)).advance) ∨
      (v = .go .nvMem ∧ s.nvMemAligned = true ∧ s.nvMemAdmitted = true ∧ s.nvMemOnText = false ∧
        s' = ((s.putNvMem (s.readX t)).recordNvMem .write (s.readX t)).advance) := by
  unfold completeWrite completeNvMemWrite raiseUndefined raiseTrap at h
  split at h
  · cases h
  · cases h
  · cases h
  · cases h
    exact .inl ⟨rfl, rfl⟩
  · cases h
    exact .inr (.inl ⟨rfl, rfl⟩)
  · split at h
    · cases h
    · split at h
      · cases h
      · split at h
        · cases h
        · next h1 h2 h3 =>
          cases h
          exact .inr (.inr ⟨rfl, by simpa using h1, by simpa using h2, by simpa using h3, rfl⟩)

/-- A meaning that answers a next state is one of five updates followed by the advance of pc. -/
theorem exec_next (i : Instr) (s s' : State) (h : exec i s = .next s') :
    (∃ w, s' = (s.writeX i.reg w).advance) ∨
      (∃ v ro, s' = (s.putTcr2El1 (mergeTcr2 s.cfg s.tcr2El1 v ro)).advance) ∨
      s' = (s.putTcr2El2 (s.readX i.reg)).advance ∨
      s' = ((s.writeX i.reg s.nvMemValue).recordNvMem .read s.nvMemValue).advance ∨
      s' = ((s.putNvMem (s.readX i.reg)).recordNvMem .write (s.readX i.reg)).advance := by
  cases i with
  | mrsTcr2El1 t | mrsTcr2El12 t | mrsTcr2AliasEl1 t =>
    rcases completeRead_next _ _ _ _ _ h with ⟨-, hs⟩ | ⟨-, hs⟩ | ⟨-, -, -, hs⟩
    · exact .inl ⟨_, hs⟩
    · exact .inl ⟨_, hs⟩
    · exact .inr (.inr (.inr (.inl hs)))
  | msrTcr2El1 t | msrTcr2El12 t | msrTcr2AliasEl1 t =>
    rcases completeWrite_next _ _ _ _ _ _ h with ⟨-, hs⟩ | ⟨-, hs⟩ | ⟨-, -, -, -, hs⟩
    · exact .inr (.inl ⟨_, _, hs⟩)
    · exact .inr (.inr (.inl hs))
    · exact .inr (.inr (.inr (.inr hs)))

/-- A meaning's outcome, when its chain stops it, is the fault of the chain's verdict (60 R131, R132, R139). -/
theorem completeRead_stop (i : Instr) (t : Nat) (s : State) :
    completeRead i t .undefined s = raiseUndefined i s ∧ completeRead i t .trapEl2 s = raiseTrap .el2 i s ∧
      completeRead i t .trapEl3 s = raiseTrap .el3 i s :=
  ⟨rfl, rfl, rfl⟩

theorem completeWrite_stop (i : Instr) (t : Nat) (ro : Word) (s : State) :
    completeWrite i t ro .undefined s = raiseUndefined i s ∧ completeWrite i t ro .trapEl2 s = raiseTrap .el2 i s ∧
      completeWrite i t ro .trapEl3 s = raiseTrap .el3 i s :=
  ⟨rfl, rfl, rfl⟩

/-- An effect of an access writes one general-purpose register, or TCR2_EL1. -/
theorem applyEffect_cases (s : State) (e : AccessEffect) :
    (∃ t, e = .read t ∧ applyEffect s e = s.writeX t s.tcr2El1) ∨ (∃ v, e = .write v ∧ applyEffect s e = s.putTcr2El1 v) := by
  cases e with
  | read t => exact .inl ⟨t, rfl, rfl⟩
  | write v => exact .inr ⟨v, rfl, rfl⟩

/-- Any property that each effect keeps is kept by a list of effects. -/
theorem applyEffects_induct (P : State → Prop) (l : List OutstandingAccess) (s : State) (h0 : P s)
    (hstep : ∀ d ∈ l, ∀ t, P t → P (applyEffect t d.effect)) : P (applyEffects s l) := by
  induction l generalizing s with
  | nil => exact h0
  | cons d l ih =>
    exact ih _ (hstep d List.mem_cons_self s h0) fun e he => hstep e (List.mem_cons_of_mem d he)

/-- With nothing outstanding there is nothing to perform (20_memory.md R69). -/
theorem performNames_nil (p : Accessor → Bool) (s : State) (h : s.outstanding = []) : performNames p s = s := by
  cases s
  simp only at h
  subst h
  rfl

/-- With nothing outstanding an instruction runs on the state as it is. -/
theorem settle_nil (i : Instr) (s : State) (h : s.outstanding = []) : settle i s = s :=
  performNames_nil _ s h

/-- Performing every outstanding effect applies them in program order and leaves none (20_memory.md R69, R70(c)). -/
theorem performAll_eq (s : State) : performAll s = applyEffects { s with outstanding := [] } s.outstanding := by
  simp [performAll, performNames]

theorem performAll_outstanding (s : State) : (performAll s).outstanding = [] := by
  rw [performAll_eq]
  refine applyEffects_induct (fun t => t.outstanding = []) _ _ rfl fun d _ t ht => ?_
  cases d.effect <;> exact ht

theorem performAll_nil (s : State) (h : s.outstanding = []) : performAll s = s :=
  performNames_nil _ s h

/-- With nothing outstanding a move has nothing to settle. -/
theorem settleBeforeNext_nil (s : State) (h : s.outstanding = []) : settleBeforeNext s = s := by
  unfold settleBeforeNext
  split
  · rfl
  · exact performAll_nil s h

/-- After a move, an effect is outstanding only before an access of R68 (20_memory.md R69). -/
theorem settleBeforeNext_cases (s : State) :
    (nextMayOvertake s = true ∧ settleBeforeNext s = s) ∨ (settleBeforeNext s = performAll s) := by
  unfold settleBeforeNext
  split
  · next h => exact .inl ⟨h, rfl⟩
  · exact .inr rfl

/-- A settled outcome is a next state exactly when the outcome is one. -/
theorem settled_next (r : Result) (s' : State) (h : settled r = .next s') : ∃ t, r = .next t ∧ s' = settleBeforeNext t := by
  cases r with
  | next t =>
    cases h
    exact ⟨t, rfl, rfl⟩
  | fault _ => cases h
  | refused _ => cases h

theorem settleRegisters_nil (i : Instr) (s : State) (h : s.outstanding = []) : settleRegisters i s = s :=
  performNames_nil _ s h

end Sys2Proof.Machine
end

