-- ==== Sys2Proof/Laws/PerInstr.lean ====
section
/-! SUPPORT. Statements for all instructions, one lemma per constructor. `FixedBits`: the fixed bits of an instruction's word are
the match value that 30_encoding.md R84 lists for its row, and Rt is its operand. -/

namespace Sys2Proof.Laws

/-- The match value of R84, by row. -/
def FixedBits.matchOf : Instr → InstrWord
  | .mrsTcr2El1 _ => 0xD5382060
  | .msrTcr2El1 _ => 0xD5182060
  | .mrsTcr2El12 _ => 0xD53D2060
  | .msrTcr2El12 _ => 0xD51D2060
  | .mrsTcr2AliasEl1 _ => 0xD53827E0
  | .msrTcr2AliasEl1 _ => 0xD51827E0

/-- The encoded word's fixed bits and its Rt. -/
def FixedBits.Statement (i : Instr) : Prop :=
  i.wf = true → encode i &&& 0xFFFFFFE0 = FixedBits.matchOf i ∧ rtOf (encode i) = i.reg

theorem FixedBits.of_le (f : Nat → Instr) (hf : ∀ t, (f t).reg = t)
    (h : ∀ t : Fin 32, encode (f t) &&& 0xFFFFFFE0 = FixedBits.matchOf (f t) ∧ rtOf (encode (f t)) = t.val) (t : Nat) :
    FixedBits.Statement (f t) := by
  intro hw
  have ht : t < 32 := by
    simp only [Instr.wf, hf, decide_eq_true_eq] at hw
    omega
  rw [hf]
  exact h ⟨t, ht⟩

theorem FixedBits.mrsTcr2El1 (t : Nat) : FixedBits.Statement (.mrsTcr2El1 t) :=
  FixedBits.of_le .mrsTcr2El1 (fun _ => rfl) (by decide) t

theorem FixedBits.msrTcr2El1 (t : Nat) : FixedBits.Statement (.msrTcr2El1 t) :=
  FixedBits.of_le .msrTcr2El1 (fun _ => rfl) (by decide) t

theorem FixedBits.mrsTcr2El12 (t : Nat) : FixedBits.Statement (.mrsTcr2El12 t) :=
  FixedBits.of_le .mrsTcr2El12 (fun _ => rfl) (by decide) t

theorem FixedBits.msrTcr2El12 (t : Nat) : FixedBits.Statement (.msrTcr2El12 t) :=
  FixedBits.of_le .msrTcr2El12 (fun _ => rfl) (by decide) t

theorem FixedBits.mrsTcr2AliasEl1 (t : Nat) : FixedBits.Statement (.mrsTcr2AliasEl1 t) :=
  FixedBits.of_le .mrsTcr2AliasEl1 (fun _ => rfl) (by decide) t

theorem FixedBits.msrTcr2AliasEl1 (t : Nat) : FixedBits.Statement (.msrTcr2AliasEl1 t) :=
  FixedBits.of_le .msrTcr2AliasEl1 (fun _ => rfl) (by decide) t

end Sys2Proof.Laws
end

