-- ==== Sys2Proof/Machine/Assembler.lean ====
section
/-! DEFINITION. The assembler form of each instruction (30_encoding.md R89): text for a reader; nothing else of the model uses
it. -/

namespace Sys2Proof.Machine

/-- The accessor name as the page spells it (30_encoding.md R81, R89). -/
def accessorText : Accessor → String
  | .tcr2El1 => "TCR2_EL1"
  | .tcr2El12 => "TCR2_EL12"
  | .tcr2AliasEl1 => "TCR2ALIAS_EL1"

/-- `<Xt>`: X0 to X30, and XZR for t = 31 (30_encoding.md R89; PRESUMED by the spec, G4, log 14). -/
def registerText (t : Nat) : String :=
  if t < 31 then "X" ++ toString t else "XZR"

/-- The instruction with a given spelling of its System register: MRS takes the destination first, MSR the System register. -/
def assemblyWith (name : String) (i : Instr) : String :=
  match i.direction with
  | .read => "MRS " ++ registerText i.reg ++ ", " ++ name
  | .write => "MSR " ++ name ++ ", " ++ registerText i.reg

/-- The assembler form (30_encoding.md R89). -/
def assembly (i : Instr) : String :=
  assemblyWith (accessorText i.accessor) i

/-- The generic System-register name that assemblers also accept, `S3_0_C2_C0_3` and so on (30_encoding.md R89; PRESUMED by
the spec, G11, log 13). -/
def genericText (a : Accessor) : String :=
  let e := sysRegEncoding a
  "S" ++ toString e.op0.toNat ++ "_" ++ toString e.op1.toNat ++ "_C" ++ toString e.crn.toNat ++ "_C" ++
    toString e.crm.toNat ++ "_" ++ toString e.op2.toNat

/-- The same word under the generic name. -/
def assemblyGeneric (i : Instr) : String :=
  assemblyWith (genericText i.accessor) i

end Sys2Proof.Machine
end

