-- ==== Sys2Proof/Tests/Slice0.lean ====
section
/-! SUPPORT. Tests. Expected values are those of spec/95_test_vectors.md and of the rules' worked examples, by the names the spec
gives them; then, for every statement that has hypotheses, a state that meets them. -/

namespace Sys2Proof.Tests

open Sys2Proof.Machine Sys2Proof.Safety

/-! ### Helpers -/

/-- One value of the next state. -/
def after {α : Type} (f : State → α) : Result → Option α
  | .next s => some (f s)
  | .fault _ => none
  | .refused _ => none

/-- The fault an instruction ends in. -/
def faultOf : Result → Option Fault
  | .next _ => none
  | .fault r => some r
  | .refused _ => none

/-- The refusal an instruction ends in. -/
def refusalOf : Result → Option Refusal
  | .next _ => none
  | .fault _ => none
  | .refused r => some r

/-- Whether an instruction or a step answers a next state. -/
def answersNext : Result → Bool
  | .next _ => true
  | .fault _ => false
  | .refused _ => false

theorem exists_next (r : Result) (h : answersNext r = true) : ∃ s', r = .next s' := by
  cases r with
  | next s => exact ⟨s, rfl⟩
  | fault _ => cases h
  | refused _ => cases h

/-- The "benign base" B of the vectors: every input at the value that does not trap. -/
def benign : Inputs :=
  { Inputs.zero with
    scrTCR2En := true, scrFGTEn := true, scrFGTEn2 := true, hfgrtr2NAlias := true, hfgwtr2NAlias := true,
    isHCRXEL2Enabled := true, hcrxTCR2En := true }

/-- EL2 in host, with EL2 enabled. -/
def hostInputs : Inputs :=
  { benign with el2Enabled := true, el2IsInHost := true, hcrE2H := true }

/-- The inputs of program 4 of the vectors, with NVx as given. -/
def nvInputs (nvx : BitVec 3) : Inputs :=
  { benign with el2Enabled := true, nvx := nvx, nvMemBase := 0x90001000 }

/-- ALL but no EL2 and no EL3. -/
def cfgNoHigher : Config :=
  { Config.reference with haveEL2 := false, haveEL3 := false, resetEL := .el1 }

/-- Field features FEAT_S1PIE and FEAT_S1POE only, no EL2, no EL3, no FEAT_SRMASK (the worked example of R102). -/
def cfgPieOnly : Config :=
  { cfgNoHigher with
    featTHE := false, featASID2 := false, featD128 := false, featHAFT := false, featAIE := false, featSRMASK := false }

/-- A state at a level with inputs and a stored value, the rest as after reset. -/
def at_ (el : EL) (n : Inputs) (w : Word) : State :=
  { State.reset with el := el, inputs := n, tcr2El1 := w }

/-- The mask bits of M1 to M6: POE, D128, DisCH1. -/
def maskM : FieldBits :=
  { FieldBits.zero with poe := true, d128 := true, disCH1 := true }

/-- All 15 mask bits. -/
def maskAll : FieldBits :=
  ⟨true, true, true, true, true, true, true, true, true, true, true, true, true, true, true⟩

/-- Two words of text at pc. -/
def withText (s : State) (a b : InstrWord) : State :=
  { s with text := placeWord (placeWord s.text s.pc a) (s.pc + 4) b }

/-! ### Well-formedness: the ill-formed term of each check -/

theorem test_wf_accepts_register_31 : (Instr.msrTcr2AliasEl1 31).wf = true := by decide

theorem test_wf_refuses_register_32 : (Instr.mrsTcr2El1 32).wf = false := by decide

theorem test_wf_reference : Config.reference.wf = true := by decide

theorem test_wf_refuses_absent_resetEL : { Config.reference with haveEL3 := false }.resetELImplemented = false := by decide

theorem test_wf_refuses_misaligned_resetPC : { Config.reference with resetPC := 0x80002 }.resetPCAligned = false := by decide

theorem test_wf_refuses_range_past_the_end :
    { Config.reference with admitted := [{ base := 2 ^ 64 - 4, size := 8 }] }.admittedInSpace = false := by decide

/-! ### Decoding: words written out from the patterns of R84, and the vectors of section 2 -/

theorem test_decode_mrsTcr2El1 : decodeWord 0b110101010011_1_000_0010_0000_011_00101#32 = .ok (.mrsTcr2El1 5) := rfl

theorem test_decode_msrTcr2El1 : decodeWord 0b110101010001_1_000_0010_0000_011_11111#32 = .ok (.msrTcr2El1 31) := rfl

theorem test_decode_mrsTcr2El12 : decodeWord 0b110101010011_1_101_0010_0000_011_00001#32 = .ok (.mrsTcr2El12 1) := rfl

theorem test_decode_msrTcr2El12 : decodeWord 0b110101010001_1_101_0010_0000_011_00010#32 = .ok (.msrTcr2El12 2) := rfl

theorem test_decode_mrsTcr2AliasEl1 : decodeWord 0b110101010011_1_000_0010_0111_111_00100#32 = .ok (.mrsTcr2AliasEl1 4) := rfl

theorem test_decode_msrTcr2AliasEl1 : decodeWord 0b110101010001_1_000_0010_0111_111_00011#32 = .ok (.msrTcr2AliasEl1 3) := rfl

theorem test_decode_refuses_nop : decodeWord 0xD503201F = .error (.notInThisSpec 0xD503201F) := rfl

theorem test_decode_refuses_op0_bit_20 : decodeWord 0xD5282060 = .error (.notInThisSpec 0xD5282060) := rfl

theorem test_decodeBytes_little_endian :
    decodeBytes [0xE3, 0x27, 0x18, 0xD5, 0x00] = .ok (.msrTcr2AliasEl1 3, [0x00]) := rfl

theorem test_decodeBytes_truncated : decodeBytes [0x60, 0x20, 0x38] = .error .truncated := rfl

theorem test_decodeTableWord : decodeTableWord 32 0xD51D2062 = some (.msrTcr2El12 2) := by decide

theorem test_encode : encode (.msrTcr2AliasEl1 3) = 0xD51827E3 := by decide

theorem test_assembly : assembly (.msrTcr2El12 31) = "MSR TCR2_EL12, XZR" := by decide

theorem test_generic_name : genericText .tcr2AliasEl1 = "S3_0_C2_C7_7" := by decide

theorem test_syndrome : trapISS (.msrTcr2AliasEl1 0) = 0x3E080E := by decide

/-! ### Masks, effective values, reset (vectors of sections 3, 5, 7) -/

theorem test_namedMask_all : namedMask Config.reference = 0x000000000037CC3F := by decide

theorem test_namedMask_pttwiRO0 : namedMask { Config.reference with pttwiRO0 := true } = 0x000000000037C83F := by decide

theorem test_storageMask_W4 :
    storageMask { Config.reference with pttwiRO0 := true, res0StorageMask := BitVec.allOnes 64 } = 0xFFFFFFFFFFFFFBFF := by
  decide

theorem test_eff_E1 :
    effective Config.reference benign 0x37CC3F = { maskAll with pnch := false } := by decide

theorem test_eff_E2 :
    effective Config.reference benign 0x37CC1F = { maskAll with disCH1 := false, disCH0 := false, d128 := false } := by
  decide

theorem test_eff_E5 :
    effective Config.reference { benign with el2Enabled := true, isHCRXEL2Enabled := false } 0x37CC3F = FieldBits.zero := by
  decide

theorem test_eff_E9 :
    effective { Config.reference with featAIE := false } benign 0x30 = { FieldBits.zero with d128 := true, pie := true } := by
  decide

theorem test_reset_Z1 : State.reset.tcr2El1 = 0x36C00D := by decide

theorem test_reset_Z3 :
    warmResetValue { cfgNoHigher with res0StorageMask := BitVec.allOnes 64 } 0xDEADBEEFCAFEF00D = 0xDEADBEEFCAFEF000 := by
  decide

/-- Every register is what one Warm reset with the named draw leaves. -/
theorem test_reset_is_a_warm_reset :
    warmReset { u := resetDrawU, tcr2El2 := 0, x := Vector.replicate 31 0 } State.reset =
      { State.reset with cachedEff := [FieldBits.zero] } := by
  decide

/-! ### One step on a small state, at most two an instruction -/

/-- The worked example of R101. -/
theorem test_mrsTcr2El1_reads :
    after (fun s => (s.readX 5, s.pc)) (exec (.mrsTcr2El1 5) { at_ .el1 Inputs.zero 0x3 with cfg := cfgNoHigher }) =
      some (0x3, 0x80004) := by decide

/-- A14: the EL2 trap comes before the EL3 trap. -/
theorem test_mrsTcr2El1_trap_el2_first :
    faultOf (exec (.mrsTcr2El1 0)
      (at_ .el1 { benign with el2Enabled := true, hcrxTCR2En := false, scrTCR2En := false } 0x3)) =
      some (.trap .el2 0x18 0x80000 0xD5382060) := by decide

/-- The worked example of R102. -/
theorem test_msrTcr2El1_storage :
    after (·.tcr2El1) (exec (.msrTcr2El1 0)
      ({ at_ .el1 Inputs.zero 0 with cfg := cfgPieOnly }.writeX 0 (BitVec.allOnes 64))) = some 0xE := by decide

/-- M7: with D128 stored 0, bits 15 and 14 are not masked. -/
theorem test_msrTcr2El1_masked :
    after (·.tcr2El1) (exec (.msrTcr2El1 1)
      ((at_ .el1 { benign with srMaskingEnabled := true, tcr2Mask := maskAll } 0x5).writeX 1 (BitVec.allOnes 64))) =
      some 0xC005 := by decide

/-- The worked example of R111. -/
theorem test_mrsTcr2El12_reads :
    after (·.readX 1) (exec (.mrsTcr2El12 1)
      { at_ .el2 hostInputs 0x22 with tcr2El2 := 0x1, cfg := { Config.reference with haveEL3 := false } }) = some 0x22 := by
  decide

/-- T12: not in host is Undefined before the EL3 test. -/
theorem test_mrsTcr2El12_not_in_host :
    faultOf (exec (.mrsTcr2El12 1) (at_ .el2 { benign with scrTCR2En := false } 0)) =
      some (.undefined 0x80000 0xD53D2061) := by decide

/-- The worked example of R112. -/
theorem test_msrTcr2El12_writes :
    after (fun s => (s.tcr2El1, s.eff.aie, s.eff.pie, s.eff.pnch)) (exec (.msrTcr2El12 2)
      ((at_ .el3 hostInputs 0x1).writeX 2 0x20)) = some (0x20, true, true, false) := by decide

/-- T9: under NVx = '101' the write goes to memory with both enables 0. -/
theorem test_msrTcr2El12_nvMem :
    after (fun s => (s.tcr2El1, s.mem)) (exec (.msrTcr2El12 0)
      ((at_ .el1 { nvInputs 0b101 with scrTCR2En := false, hcrxTCR2En := false } 0x2A).writeX 0 0xFF0000000000003F)) =
      some (0x2A, [(0x90001270, 0x3F), (0x90001277, 0xFF)]) := by decide

/-- The worked example of R121. -/
theorem test_mrsTcr2AliasEl1_polarity :
    faultOf (exec (.mrsTcr2AliasEl1 0)
      { at_ .el1 { benign with el2Enabled := true, hfgrtr2NAlias := false } 0 with
        cfg := { Config.reference with haveEL3 := false } }) = some (.trap .el2 0x18 0x80000 0xD53827E0) := by decide

/-- Program 4 with NVMemBigEndian true. -/
theorem test_mrsTcr2AliasEl1_bigEndian :
    after (·.readX 1) (exec (.mrsTcr2AliasEl1 1)
      { at_ .el1 (nvInputs 0b111) 0x2A with
        cfg := { Config.reference with nvMemBigEndian := true }
        mem := [(0x90001270, 0xFF), (0x90001277, 0x3F)] }) = some 0xFF0000000000003F := by decide

/-- The worked example of R122, AliasWriteMasked true. -/
theorem test_msrTcr2AliasEl1_masked :
    after (·.tcr2El1) (exec (.msrTcr2AliasEl1 3)
      ({ at_ .el1 { Inputs.zero with srMaskingEnabled := true, tcr2Mask := { FieldBits.zero with poe := true } } 0x8 with
        cfg := cfgNoHigher }.writeX 3 0x4)) = some 0xC := by decide

/-- The worked example of R122, AliasWriteMasked false. -/
theorem test_msrTcr2AliasEl1_unmasked :
    after (·.tcr2El1) (exec (.msrTcr2AliasEl1 3)
      ({ at_ .el1 { Inputs.zero with srMaskingEnabled := true, tcr2Mask := { FieldBits.zero with poe := true } } 0x8 with
        cfg := { cfgNoHigher with aliasWriteMasked := false } }.writeX 3 0x4)) = some 0x4 := by decide

theorem test_zero_register_reads_zero : (State.reset.writeX 31 0x77).readX 31 = 0 := by decide

/-- The first instruction after reset. -/
theorem test_step_runs_the_placed_word :
    after (fun s => (s.readX 5, s.pc)) (step (State.reset.withFetchWord 32 0xD5382065)) = some (0x36C00D, 0x80004) := by
  decide

theorem test_step_refuses_other_words :
    refusalOf (step (State.reset.withFetchWord 32 0xD503201F)) = some (.notInThisSpec 0xD503201F) := by decide

/-- The end of a run (R172). -/
theorem test_run_ends_after_its_words :
    runTo (endOfProgram Config.reference 0) 1 (State.reset.loadProgram []) = .normal State.reset := by decide

/-- An absent register takes nothing from the draw (R2). -/
theorem test_absent_register_holds_nothing :
    warmResetValue { Config.reference with featTCR2 := false, res0StorageMask := BitVec.allOnes 64 } resetDrawU = 0 := by
  decide

/-! ### For every statement with hypotheses, a state and operands that meet them; one per clause -/

theorem witness_EncodedInstructionDecodes : (Instr.mrsTcr2El12 31).wf = true := by decide

theorem witness_DecodedWordIsTheEncoding : decodeWord 0xD538207F = .ok (.mrsTcr2El1 31) := rfl

/-- Reset with the word 0xD503201F at pc. -/
def nopState : State := { State.reset with text := placeWord [] 0x80000 0xD503201F }

theorem witness_OtherWordsAreRefused :
    nopState.schedule = [] ∧ nopState.pcAligned = true ∧
      (∀ k, k < 4 → lookupCell nopState.text (byteAddr nopState.pc k) = some (wordByte 0xD503201F k)) ∧
      ∀ (a : Accessor) (d : Direction), (0xD503201F#32) &&& 0xFFFFFFE0 ≠ matchWord a d := by
  refine ⟨by decide, by decide, by decide, fun a d => ?_⟩
  cases a <;> cases d <;> decide

theorem witness_FetchStopsByName_misaligned :
    { State.reset with pc := 0x80002 }.schedule = [] ∧ { State.reset with pc := 0x80002 }.pcAligned = false := by decide

/-- Text that ends one byte short of a word. -/
theorem witness_FetchStopsByName_outside :
    let s := { State.reset with text := placeBytes [] 0x80000 0xD5382060 3 }
    s.schedule = [] ∧ s.pcAligned = true ∧ ∃ k, k < 4 ∧ s.text.holds (byteAddr s.pc k) = false :=
  ⟨by decide, by decide, 3, by decide, by decide⟩

/-- Reset at EL3, EL2 in host, E2H = 1, with two words of text. -/
def pairState (a b : Instr) (schedule : List Move) : State :=
  { withText (at_ .el3 hostInputs 0) (encode a) (encode b) with schedule := schedule }

theorem witness_StepRunsTheDecodedInstruction :
    let s := pairState (.mrsTcr2El12 31) (.msrTcr2El1 0) []
    (Instr.mrsTcr2El12 31).wf = true ∧ s.pcAligned = true ∧ TextAt s s.pc (.mrsTcr2El12 31) ∧ s.schedule = [] ∧
      s.outstanding = [] := by
  unfold TextAt
  decide

theorem witness_StepRunsTheDecodedInstruction_scheduled :
    let s := pairState (.mrsTcr2El12 31) (.msrTcr2El1 0) [.execute, .synchronize]
    (Instr.mrsTcr2El12 31).wf = true ∧ s.pcAligned = true ∧ TextAt s s.pc (.mrsTcr2El12 31) ∧
      s.schedule = .execute :: [.synchronize] := by
  unfold TextAt
  decide

theorem witness_PlacedWordRunsNext :
    0xD518207F < 2 ^ 32 ∧ State.reset.pcAligned = true ∧ State.reset.outstanding = [] ∧
      decodeWord (BitVec.ofNat 32 0xD518207F) = .ok (.msrTcr2El1 31) :=
  ⟨by decide, by decide, by decide, rfl⟩

/-- A draw with every bit of `u` set. -/
def drawOnes : ResetDraw := { u := BitVec.allOnes 64, tcr2El2 := 0x77, x := Vector.replicate 31 0x9 }

/-- Class Z where the highest level is EL1, and bit 10 where PTTWI is fixed at 0. -/
theorem witness_WarmResetFollowsTheDraw_el1 :
    let c := { cfgNoHigher with pttwiRO0 := true, res0StorageMask := BitVec.allOnes 64 }
    let s := { State.reset with cfg := c, schedule := [.warmReset drawOnes] }
    s.schedule = .warmReset drawOnes :: [] ∧ Field.haft.named s.cfg = true ∧ Field.haft.resetClass = .z ∧
      s.cfg.haveEL2 = false ∧ s.cfg.haveEL3 = false ∧ s.cfg.featTHE = true ∧ s.cfg.pttwiRO0 = true ∧
      ∀ f : Field, f.named s.cfg = true → f.pos ≠ 10 := by
  refine ⟨rfl, by decide, by decide, by decide, by decide, by decide, by decide, fun f => ?_⟩
  cases f <;> decide

/-- A named field of each class, and a reserved position. -/
theorem witness_WarmResetFollowsTheDraw :
    let s := { State.reset with schedule := [.warmReset drawOnes] }
    s.schedule = .warmReset drawOnes :: [] ∧ Field.pnch.named s.cfg = true ∧ Field.fngna1.named s.cfg = true ∧
      63 < 64 ∧ ∀ f : Field, f.named s.cfg = true → f.pos ≠ 63 := by
  refine ⟨rfl, by decide, by decide, by decide, fun f _ => ?_⟩
  cases f <;> decide

theorem witness_ResetClassesByPosition :
    (namedMask Config.reference).getLsbD 21 = true ∧ 21 ∈ [21, 20, 18, 17, 16, 15, 14] ∧
      (namedMask cfgNoHigher).getLsbD 0 = true ∧ 0 ∈ [11, 10, 5, 4, 3, 2, 1, 0] ∧ cfgNoHigher.highestEL = .el1 ∧
      (namedMask Config.reference).getLsbD 11 = true ∧ 11 ∈ [11, 10, 5, 4, 3, 2, 1, 0] ∧
      Config.reference.highestEL ≠ .el1 := by decide

theorem witness_ReadOnlyPositions : ∀ f : Field, f.pos ≠ 19 := by
  intro f
  cases f <;> decide

theorem witness_TranslationStartsPlain :
    let s := { State.reset with cfg := cfgNoHigher }
    s.cfg.haveEL2 = false ∧ s.cfg.haveEL3 = false ∧ s.inputs.el2Enabled = false := by decide

/-- Reset with a word of text placed meets the invariant, and its step answers a next state. -/
theorem witness_StepKeepsTheInvariant :
    let s := State.reset.withFetchWord 32 0xD5382065
    Inv s ∧ ∃ s', step s = .next s' :=
  ⟨⟨by decide, by unfold withinStorage; decide, by decide, by decide, by decide, by decide, List.forall_mem_nil _,
    fun h => absurd rfl h, List.forall_mem_nil _, by decide⟩, exists_next _ (by decide)⟩

theorem witness_step_next : ∃ s', step (State.reset.withFetchWord 32 0xD5182060) = .next s' :=
  exists_next _ (by decide)

theorem witness_MeaningsKeepTheRegisterInStorage :
    withinStorage State.reset.cfg State.reset.tcr2El1 ∧ ∃ s', exec (.msrTcr2El1 0) State.reset = .next s' :=
  ⟨by unfold withinStorage; decide, exists_next _ (by decide)⟩

/-! The completions: each arm of `ReachesRegister`, TCR2_EL2, NVMem. -/

/-- EL1 with EL2 enabled and no control of EL2 or EL3 set against it. -/
def el1State : State := at_ .el1 { benign with el2Enabled := true } 0x3

theorem witness_implemented :
    Implemented el1State.cfg (.mrsTcr2El1 0) ∧ Implemented el1State.cfg (.msrTcr2El1 31) ∧
      Implemented el1State.cfg (.mrsTcr2El12 0) ∧ Implemented el1State.cfg (.msrTcr2El12 31) ∧
      Implemented el1State.cfg (.mrsTcr2AliasEl1 0) ∧ Implemented el1State.cfg (.msrTcr2AliasEl1 31) := by
  unfold Implemented
  decide

theorem witness_ReachesRegister_el1 :
    ReachesRegister el1State el1State.inputs.hcrTRVM (fineTrapTest (.mrsTcr2El1 0) el1State) ∧
      ReachesRegister el1State el1State.inputs.hcrTVM (fineTrapTest (.msrTcr2El1 0) el1State) ∧
      ReachesRegister el1State el1State.inputs.hcrTRVM (fineTrapTest (.mrsTcr2AliasEl1 0) el1State) ∧
      ReachesRegister el1State el1State.inputs.hcrTVM (fineTrapTest (.msrTcr2AliasEl1 0) el1State) := by
  unfold ReachesRegister ClearAtEl1 ClearAtEl2
  refine ⟨?_, ?_, ?_, ?_⟩ <;> decide

theorem witness_ReachesRegister_el2 : ReachesRegister (at_ .el2 benign 0x3) true true := by
  unfold ReachesRegister ClearAtEl1 ClearAtEl2
  decide

theorem witness_ReachesRegister_el3 : ReachesRegister State.reset true true := by
  unfold ReachesRegister ClearAtEl1 ClearAtEl2
  decide

theorem witness_El2InHost :
    (at_ .el2 hostInputs 0x1).el = .el2 ∧ ClearAtEl2 (at_ .el2 hostInputs 0x1) ∧
      (at_ .el2 hostInputs 0x1).inputs.el2IsInHost = true := by
  unfold ClearAtEl2
  decide

theorem witness_ReachesRegisterEl12_el2 : ReachesRegisterEl12 (at_ .el2 hostInputs 0x1) := by
  unfold ReachesRegisterEl12 ClearAtEl2
  decide

theorem witness_ReachesRegisterEl12_el3 : ReachesRegisterEl12 (at_ .el3 hostInputs 0x1) := by
  unfold ReachesRegisterEl12 ClearAtEl2
  decide

/-- NVMem at the last 8 bytes of the address space. -/
def nvTopState (nvx : BitVec 3) : State :=
  at_ .el1 { nvInputs nvx with nvMemBase := 0xFFFFFFFFFFFFFD88 } 0x2A

theorem witness_DirectedToNvMem_111 :
    DirectedToNvMem (.mrsTcr2El1 0) (nvTopState 0b111) ∧ DirectedToNvMem (.msrTcr2El1 0) (nvTopState 0b111) ∧
      DirectedToNvMem (.mrsTcr2AliasEl1 0) (nvTopState 0b111) ∧ DirectedToNvMem (.msrTcr2AliasEl1 0) (nvTopState 0b111) := by
  unfold DirectedToNvMem Implemented El2Control ScrDisabled
  refine ⟨?_, ?_, ?_, ?_⟩ <;> decide

theorem witness_DirectedToNvMem_101 :
    DirectedToNvMem (.mrsTcr2El12 0) (nvTopState 0b101) ∧ DirectedToNvMem (.msrTcr2El12 31) (nvTopState 0b101) := by
  unfold DirectedToNvMem Implemented El2Control ScrDisabled
  decide

theorem witness_NvMemReady :
    NvMemReady (nvTopState 0b111) ∧ NvMemClearOfText (nvTopState 0b111) ∧ NvMemReady (nvTopState 0b101) ∧
      NvMemClearOfText (nvTopState 0b101) := by
  unfold NvMemReady NvMemClearOfText
  decide

/-! Undefined and traps. -/

theorem witness_UnimplementedRegisterIsUndefined :
    { Config.reference with featTCR2 := false }.featTCR2 = false ∧
      { Config.reference with featAA64 := false }.featAA64 = false := by decide

theorem witness_UnallocatedAccessorIsUndefined :
    (Instr.mrsTcr2El12 0).accessor = .tcr2El12 ∧ { Config.reference with featVHE := false }.featVHE = false ∧
      (Instr.msrTcr2AliasEl1 0).accessor = .tcr2AliasEl1 ∧
      { Config.reference with featSRMASK := false }.featSRMASK = false := by decide

theorem witness_El0AccessIsUndefined : (at_ .el0 benign 0).el = .el0 := rfl

theorem witness_TrapsAreTakenAbove :
    exec (.mrsTcr2El1 0) (at_ .el2 { benign with scrTCR2En := false } 0) =
      .fault (.trap .el3 0x18 0x80000 0xD5382060) := rfl

theorem witness_IgnoredRegisterIsOutOfReachAtEl1 :
    let s := at_ .el1 { benign with scrTCR2En := false } 0x3
    s.el = .el1 ∧ (Instr.msrTcr2AliasEl1 0).accessor ≠ .tcr2El12 ∧ tcr2Ignored s.cfg s.inputs = true := by decide

theorem witness_NameTcr2El12AtEl1IsMemoryOnly :
    (nvTopState 0b101).el = .el1 ∧ (∃ s', exec (.mrsTcr2El12 0) (nvTopState 0b101) = .next s') ∧
      ∃ s', exec (.msrTcr2El12 0) (nvTopState 0b101) = .next s' :=
  ⟨rfl, exists_next _ (by decide), exists_next _ (by decide)⟩

/-- EL1 and EL3 only. -/
def noEl2State : State :=
  { at_ .el1 benign 0x3 with cfg := { Config.reference with haveEL2 := false } }

theorem witness_WithoutEl2OnlyScrStops :
    Consistent noEl2State ∧ noEl2State.cfg.haveEL2 = false ∧ noEl2State.el = .el1 ∧
      (Instr.mrsTcr2El1 0).accessor ≠ .tcr2El12 ∧ Implemented noEl2State.cfg (.mrsTcr2El1 0) := by
  refine ⟨⟨by decide, by decide, by decide⟩, rfl, rfl, by decide, ?_⟩
  unfold Implemented
  decide

/-! Masks. -/

/-- EL1 with masking of POE, D128 and DisCH1 (M1 and M2). -/
def maskState (w : Word) : State := at_ .el1 { benign with srMaskingEnabled := true, tcr2Mask := maskM } w

/-- A masked field, a named field that is not masked, and a reserved position. -/
theorem witness_MaskedWriteBitByBit :
    (maskState 0x8028).el = .el1 ∧ (maskState 0x8028).inputs.nvx ≠ 0b111#3 ∧
      (∃ s', exec (.msrTcr2El1 31) (maskState 0x8028) = .next s') ∧ Field.disCH1.named (maskState 0x8028).cfg = true ∧
      63 < 64 ∧ ∀ f : Field, f.named (maskState 0x8028).cfg = true → f.pos ≠ 63 := by
  refine ⟨rfl, by decide, exists_next _ (by decide), by decide, by decide, fun f _ => ?_⟩
  cases f <;> decide

theorem witness_MaskHasNoEffectAwayFromEl1 : (at_ .el2 benign 0).el ≠ .el1 := by decide

theorem witness_AbsentEl3IsNotConsulted : { Config.reference with haveEL3 := false }.haveEL3 = false := rfl

theorem witness_DisabledEl2IsNotConsulted : (at_ .el1 benign 0).inputs.el2Enabled = false := rfl

/-! Memory. -/

theorem witness_AllNamesShareTheNvMemBytes :
    let s := nvTopState 0b111
    30 < 31 ∧ DirectedToNvMem (.msrTcr2El1 0) s ∧ (∃ s1, exec (.msrTcr2El1 0) s = .next s1) ∧
      s.inputs.hcrTRVM = s.inputs.hcrTVM ∧ fineTrapTest (.mrsTcr2El1 30) s = false ∧ s.cfg.featSRMASK = true ∧
      fineTrapTest (.mrsTcr2AliasEl1 30) s = false ∧ s.cfg.featVHE = true :=
  ⟨by decide, witness_DirectedToNvMem_111.2.1, exists_next _ (by decide), by decide, by decide, by decide, by decide, by decide⟩

/-- Another agent's store at the top of the address space. -/
theorem witness_AllNamesShareTheNvMemBytes_agent :
    let s := { State.reset with schedule := [.agentStore (BitVec.allOnes 64) 0x5A] }
    s.outstanding = [] ∧ after (fun t => t.mem) (step s) = some [(2 ^ 64 - 1, 0x5A)] := by
  decide

theorem witness_NvMemAccessStopsByName_misaligned :
    let s := at_ .el1 { nvInputs 0b111 with nvMemBase := 0x90001004 } 0
    DirectedToNvMem (.mrsTcr2El1 0) s ∧ s.inputs.nvMemBase.extractLsb' 0 3 ≠ 0#3 := by
  unfold DirectedToNvMem Implemented El2Control ScrDisabled
  decide

/-- Seven of the eight bytes admitted. -/
theorem witness_NvMemAccessStopsByName_notAdmitted :
    let s := { at_ .el1 (nvInputs 0b111) 0 with
      cfg := { Config.reference with admitted := [{ base := 0x90001270, size := 7 }] } }
    DirectedToNvMem (.mrsTcr2El1 0) s ∧ s.inputs.nvMemBase.extractLsb' 0 3 = 0#3 ∧ ¬ NvMemReady s := by
  unfold DirectedToNvMem Implemented El2Control ScrDisabled NvMemReady
  decide

/-- Text on the last of the eight bytes. -/
theorem witness_NvMemAccessStopsByName_onText :
    let s := { at_ .el1 (nvInputs 0b111) 0 with text := [(0x90001277, 0xD5)] }
    DirectedToNvMem (.msrTcr2El1 0) s ∧ NvMemReady s ∧ (Instr.msrTcr2El1 0).direction = .write ∧ ¬ NvMemClearOfText s := by
  unfold DirectedToNvMem Implemented El2Control ScrDisabled NvMemReady NvMemClearOfText
  decide

/-! Ordering. -/

theorem atEl3Unordered_pairState (a b : Instr) (l : List Move) : AtEl3Unordered (pairState a b l) :=
  ⟨rfl, rfl, rfl, rfl, rfl, show State.reset.pcAligned = true by decide, rfl⟩

theorem witness_ReadMayOvertakeWrite :
    let s := pairState (.msrTcr2El1 31) (.mrsTcr2El12 30) [.executeLate, .execute, .perform .tcr2El1]
    crossPair .tcr2El1 .tcr2El12 = true ∧ AtEl3Unordered s ∧ Pair s (msr .tcr2El1 31) (mrs .tcr2El12 30) ∧
      s.schedule = [.executeLate, .execute, .perform .tcr2El1] := by
  refine ⟨rfl, atEl3Unordered_pairState _ _ _, ?_, rfl⟩
  unfold Pair TextAt
  decide

theorem witness_ReadMayOvertakeWrite_reverse :
    let s := pairState (.msrTcr2El12 0) (.mrsTcr2El1 2) [.executeLate, .execute, .perform .tcr2El12]
    crossPair .tcr2El12 .tcr2El1 = true ∧ AtEl3Unordered s ∧ Pair s (msr .tcr2El12 0) (mrs .tcr2El1 2) ∧
      s.schedule = [.executeLate, .execute, .perform .tcr2El12] := by
  refine ⟨rfl, atEl3Unordered_pairState _ _ _, ?_, rfl⟩
  unfold Pair TextAt
  decide

theorem witness_ReadMayOvertakeWrite_inOrder :
    let s := pairState (.msrTcr2El1 0) (.mrsTcr2El12 2) []
    crossPair .tcr2El1 .tcr2El12 = true ∧ AtEl3Unordered s ∧ Pair s (msr .tcr2El1 0) (mrs .tcr2El12 2) ∧
      s.schedule = [] := by
  refine ⟨rfl, atEl3Unordered_pairState _ _ _, ?_, rfl⟩
  unfold Pair TextAt
  decide

theorem witness_TwoWritesMayLandInEitherOrder :
    let s := pairState (.msrTcr2El12 0) (.msrTcr2El1 31) [.executeLate, .execute, .perform .tcr2El12]
    crossPair .tcr2El12 .tcr2El1 = true ∧ AtEl3Unordered s ∧ Pair s (msr .tcr2El12 0) (msr .tcr2El1 31) ∧
      s.schedule = [.executeLate, .execute, .perform .tcr2El12] := by
  refine ⟨rfl, atEl3Unordered_pairState _ _ _, ?_, rfl⟩
  unfold Pair TextAt
  decide

theorem witness_TwoWritesMayLandInEitherOrder_inOrder :
    let s := pairState (.msrTcr2El1 0) (.msrTcr2El12 31) []
    crossPair .tcr2El1 .tcr2El12 = true ∧ AtEl3Unordered s ∧ Pair s (msr .tcr2El1 0) (msr .tcr2El12 31) ∧
      s.schedule = [] := by
  refine ⟨rfl, atEl3Unordered_pairState _ _ _, ?_, rfl⟩
  unfold Pair TextAt
  decide

theorem witness_WriteMayOvertakeRead :
    let s := pairState (.mrsTcr2El1 30) (.msrTcr2El12 31) [.executeLate, .execute, .perform .tcr2El1]
    crossPair .tcr2El1 .tcr2El12 = true ∧ 30 ≠ 31 ∧ AtEl3Unordered s ∧ Pair s (mrs .tcr2El1 30) (msr .tcr2El12 31) ∧
      s.schedule = [.executeLate, .execute, .perform .tcr2El1] := by
  refine ⟨rfl, by decide, atEl3Unordered_pairState _ _ _, ?_, rfl⟩
  unfold Pair TextAt
  decide

theorem witness_WriteMayOvertakeRead_inOrder :
    let s := pairState (.mrsTcr2El12 30) (.msrTcr2El1 31) []
    crossPair .tcr2El12 .tcr2El1 = true ∧ AtEl3Unordered s ∧ Pair s (mrs .tcr2El12 30) (msr .tcr2El1 31) ∧
      s.schedule = [] := by
  refine ⟨rfl, atEl3Unordered_pairState _ _ _, ?_, rfl⟩
  unfold Pair TextAt
  decide

theorem witness_SynchronizeRestoresOrder :
    let s := pairState (.msrTcr2El1 31) (.mrsTcr2El12 30) [.executeLate, .synchronize, .execute]
    crossPair .tcr2El1 .tcr2El12 = true ∧ AtEl3Unordered s ∧ Pair s (msr .tcr2El1 31) (mrs .tcr2El12 30) ∧
      s.schedule = [.executeLate, .synchronize, .execute] := by
  refine ⟨rfl, atEl3Unordered_pairState _ _ _, ?_, rfl⟩
  unfold Pair TextAt
  decide

theorem witness_SynchronizeRestoresOrder_writes :
    let s := pairState (.msrTcr2El12 0) (.msrTcr2El1 31) [.executeLate, .synchronize, .execute]
    crossPair .tcr2El12 .tcr2El1 = true ∧ AtEl3Unordered s ∧ Pair s (msr .tcr2El12 0) (msr .tcr2El1 31) ∧
      s.schedule = [.executeLate, .synchronize, .execute] := by
  refine ⟨rfl, atEl3Unordered_pairState _ _ _, ?_, rfl⟩
  unfold Pair TextAt
  decide

theorem witness_SynchronizeRestoresOrder_writeAfterRead :
    let s := pairState (.mrsTcr2El12 30) (.msrTcr2El1 0) [.executeLate, .synchronize, .execute]
    crossPair .tcr2El12 .tcr2El1 = true ∧ AtEl3Unordered s ∧ Pair s (mrs .tcr2El12 30) (msr .tcr2El1 0) ∧
      s.schedule = [.executeLate, .synchronize, .execute] := by
  refine ⟨rfl, atEl3Unordered_pairState _ _ _, ?_, rfl⟩
  unfold Pair TextAt
  decide

theorem witness_SynchronizeRestoresOrder_alone :
    let s := pairState (.msrTcr2El1 0) (.mrsTcr2El12 2) [.synchronize]
    s.outstanding = [] ∧ s.schedule = .synchronize :: [] := ⟨rfl, rfl⟩

/-- Without FEAT_SRMASK, both late. -/
theorem witness_SameNameKeepsProgramOrder :
    let s := { pairState (.msrTcr2El12 31) (.mrsTcr2El12 30) [.executeLate, .executeLate] with
      cfg := { Config.reference with featSRMASK := false } }
    crossPair .tcr2El12 .tcr2El12 = false ∧ AtEl3Unordered s ∧
      Pair s (msr .tcr2El12 31) (mrs .tcr2El12 30) ∧ s.schedule = [.executeLate, .executeLate] := by
  refine ⟨rfl, ⟨rfl, rfl, rfl, rfl, rfl, show State.reset.pcAligned = true by decide, rfl⟩, ?_, rfl⟩
  unfold Pair TextAt
  decide

theorem witness_SameNameKeepsProgramOrder_alias :
    let s := pairState (.msrTcr2El1 0) (.mrsTcr2AliasEl1 30) [.executeLate, .execute]
    crossPair .tcr2El1 .tcr2AliasEl1 = false ∧ s.cfg.featSRMASK = true ∧ AtEl3Unordered s ∧
      Pair s (msr .tcr2El1 0) (mrs .tcr2AliasEl1 30) ∧ s.schedule = [.executeLate, .execute] := by
  refine ⟨rfl, rfl, atEl3Unordered_pairState _ _ _, ?_, rfl⟩
  unfold Pair TextAt
  decide

/-- An effect is outstanding, before an access of R68: the invariant admits it. -/
theorem witness_late_inv :
    let s := { pairState (.mrsTcr2El12 2) (.mrsTcr2El12 2) [] with outstanding := [⟨.tcr2El1, .read 1⟩] }
    s.outstanding ≠ [] ∧ nextMayOvertake s = true := by
  decide

/-- The machine stops for want of text; and a run ends each way. -/
theorem witness_StoppedMachineHasNothingOutstanding :
    Inv State.reset ∧ (∀ s', step State.reset ≠ .next s') ∧ runTo 0x80000 1 State.reset = .normal State.reset ∧
      runTo 0x80004 1 State.reset = .refused State.reset (.fetchOutsideText 0x80000) :=
  ⟨⟨by decide, by unfold withinStorage; decide, by decide, by decide, by decide, by decide, List.forall_mem_nil _,
    fun h => absurd rfl h, List.forall_mem_nil _, by decide⟩, fun _ h => (by cases h), by decide, by decide⟩

theorem witness_LateMeansNothingElsewhere : el1State.el ≠ .el3 ∧ State.reset.inputs.hcrE2H = false := by decide

/-- The final state of a run, as far as `f` looks. -/
def ended {α : Type} (f : State → α) : RunEnd → Option α
  | .normal s => some (f s)
  | .fault _ _ => none
  | .refused _ _ => none
  | .unfinished _ => none

/-- Section 9 of the vectors, row 3, with both executed late: x[2] = 0x2 only. -/
theorem test_run_same_name_both_late :
    ended (·.readX 2) (runTo 0x80008 2
      ((pairState (.msrTcr2El1 0) (.mrsTcr2El1 2) [.executeLate, .executeLate]).writeX 0 0x2)) = some 0x2 := by decide

/-- Section 9, row 4: TCR2_EL1 = 0x2 when the first MSR is late, at the end of a run with nothing else scheduled. -/
theorem test_run_two_writes_first_late :
    ended (·.tcr2El1) (runTo 0x80008 2
      (((pairState (.msrTcr2El1 0) (.msrTcr2El12 1) [.executeLate]).writeX 0 0x2).writeX 1 0x8)) = some 0x2 := by decide

/-! Effective values. -/

theorem witness_IgnoredFieldsActAsZero :
    tcr2Ignored Config.reference { benign with el2Enabled := true, isHCRXEL2Enabled := false } = true ∧
      tcr2Ignored Config.reference Inputs.zero = true ∧
      { Config.reference with featAA64 := false }.registerPresent = false := by decide

/-- FEAT_D128 implemented, and not. -/
theorem witness_D128ChangesFiveFields :
    Config.reference.registerPresent = true ∧ tcr2Ignored Config.reference benign = false ∧
      Config.reference.featD128 = true ∧ cfgPieOnly.registerPresent = true ∧ tcr2Ignored cfgPieOnly benign = false ∧
      cfgPieOnly.featD128 = false ∧
      (0xC021#64).getLsbD 5 = true ∧ (0xC001#64).getLsbD 5 = false := by decide

theorem witness_IgnoredRegisterSwitchesNothing : tcr2Ignored State.reset.cfg State.reset.inputs = true := by decide

/-- Each switch at 1, and HCRX_EL2 enabled. -/
theorem witness_FieldsSwitchTranslation :
    maskAll.pnch = true ∧ { maskAll with pnch := false }.pnch = false ∧
      { maskAll with pnch := false }.disCH1 = true ∧ FieldBits.zero.disCH0 = false ∧
      el1State.cfg.haveEL2 = true ∧ el1State.inputs.isHCRXEL2Enabled = true := by decide

/-- POE in effect, then EL3 takes the enable away. -/
theorem witness_InputsChangeOnlyEffectiveValues :
    let s := { at_ .el1 benign 0x8 with schedule := [.setInputs Inputs.zero] }
    s.schedule = .setInputs Inputs.zero :: [] ∧
      tcr2Ignored s.cfg Inputs.zero = true ∧ mayUse (setInputs Inputs.zero s) .poe false = true ∧
      mayUse (setInputs Inputs.zero s) .poe true = false := by decide

/-- The same with an MSR in between and no Synchronize: the value that MSR found may still be used (R167, R168). -/
theorem witness_InputsChangeOnlyEffectiveValues_unsynced :
    let s := (at_ .el1 benign 0x8).putTcr2El1 0
    mayUse (setInputs Inputs.zero s) .poe true = true ∧ mayUse (synchronize (setInputs Inputs.zero s)) .poe true = false := by
  decide

theorem witness_WriteIsSeenOldOrNewUntilSynchronize :
    let s := at_ .el1 benign 0x8
    (∃ s', exec (.msrTcr2El1 31) s = .next s' ∧ s'.tcr2El1 ≠ s.tcr2El1) ∧ mayUse (synchronize s) .poe true = true ∧
      s.unsynced = [] ∧ s.unsyncedEff = [] ∧ mayUse (warmReset drawOnes s) .e0poe true = true :=
  ⟨⟨_, rfl, by decide⟩, by decide, by decide, by decide, by decide⟩

/-- POE set by an MSR executed late, its effect outstanding, then EL3's enable taken away: the old and the new value may be used
until Synchronize (R68, R167). -/
theorem witness_WriteIsSeenOldOrNewUntilSynchronize_late :
    let s := (pairState (.msrTcr2El1 0) (.mrsTcr2El12 2) [.executeLate]).writeX 0 0x8
    nextMayOvertake s = true ∧ s.tcr2El1 ≠ mergedValue (.msrTcr2El1 0) s ∧
      after (fun t => (t.outstanding.length, mayUse t .poe false, mayUse t .poe true,
        mayUse (setInputs Inputs.zero t) .poe true, mayUse (synchronize (setInputs Inputs.zero t)) .poe true)) (step s) =
        some (1, true, true, true, false) := by
  decide

/-- The same MSR, where an earlier one is outstanding. -/
theorem witness_WriteIsSeenOldOrNewUntilSynchronize_two_late :
    let s := { (pairState (.msrTcr2El1 0) (.mrsTcr2El12 2) [.executeLate]).writeX 0 0x8 with
      outstanding := [⟨.tcr2El12, .write 0x4⟩] }
    lateAllowed (.msrTcr2El1 0) s = true ∧
      (∃ d ∈ (settleRegisters (.msrTcr2El1 0) { s with schedule := [] }).outstanding, d.effect = .write 0x4) ∧
      (0x4 : Word) ≠ mergedValue (.msrTcr2El1 0) (settleRegisters (.msrTcr2El1 0) { s with schedule := [] }) := by
  decide

/-- A value in force, and a value remembered. -/
theorem witness_CachedValuesStayUntilDropped :
    let s := { State.reset.withFetchWord 32 0xD518207F with inputs := benign, cachedEff := [FieldBits.zero] }
    Field.fngna0 ≠ .poe ∧ Field.fngna0 ≠ .e0poe ∧ (∃ s', step s = .next s') ∧ (∀ rest, s.schedule ≠ .dropCached :: rest) ∧
      true = s.eff.get .fngna0 ∧ ∃ e ∈ s.cachedEff, e.get .fngna0 = false :=
  ⟨by decide, by decide, exists_next _ (by decide), fun _ h => Move.noConfusion (List.cons.inj h).1, by decide, FieldBits.zero,
    by decide, rfl⟩

/-- The remembered value goes. -/
theorem witness_CachedValuesStayUntilDropped_drop :
    let s := { at_ .el1 benign 0x20 with cachedEff := [FieldBits.zero], schedule := [.dropCached] }
    s.unsynced = [] ∧ s.unsyncedEff = [] ∧ s.outstanding = [] ∧ mayUse s .d128 false = true ∧
      after (fun t => mayUse t .d128 false) (step s) = some false := by
  decide

end Sys2Proof.Tests
end

section
/-! SUPPORT. What a step can do, said once: the inversion of `step`, of the two moves of the PE and of `settleBeforeNext`; and
the fields that performing outstanding accesses leaves alone (20_memory.md R68, R69). -/

namespace Sys2Proof.Machine

/-! ### What performing outstanding accesses leaves alone -/

/-- What neither a write of a general-purpose register nor one of TCR2_EL1 changes, no list of effects changes. -/
theorem applyEffects_proj {α : Type} (f : State → α) (hx : ∀ s t v, f (State.writeX s t v) = f s)
    (hw : ∀ s v, f (State.putTcr2El1 s v) = f s) (l : List OutstandingAccess) (s : State) :
    f (applyEffects s l) = f s := by
  refine applyEffects_induct (fun t => f t = f s) l s rfl fun d _ t ht => ?_
  obtain ⟨u, -, hu⟩ | ⟨v, -, hv⟩ := applyEffect_cases t d.effect
  · rw [hu, hx, ht]
  · rw [hv, hw, ht]

section
variable (p : Accessor → Bool) (s : State)

@[simp] theorem performNames_cfg : (performNames p s).cfg = s.cfg :=
  applyEffects_proj State.cfg (fun _ _ _ => rfl) (fun _ _ => rfl) _ _

@[simp] theorem performNames_inputs : (performNames p s).inputs = s.inputs :=
  applyEffects_proj State.inputs (fun _ _ _ => rfl) (fun _ _ => rfl) _ _

@[simp] theorem performNames_el : (performNames p s).el = s.el :=
  applyEffects_proj State.el (fun _ _ _ => rfl) (fun _ _ => rfl) _ _

@[simp] theorem performNames_pc : (performNames p s).pc = s.pc :=
  applyEffects_proj State.pc (fun _ _ _ => rfl) (fun _ _ => rfl) _ _

@[simp] theorem performNames_tcr2El2 : (performNames p s).tcr2El2 = s.tcr2El2 :=
  applyEffects_proj State.tcr2El2 (fun _ _ _ => rfl) (fun _ _ => rfl) _ _

@[simp] theorem performNames_mem : (performNames p s).mem = s.mem :=
  applyEffects_proj State.mem (fun _ _ _ => rfl) (fun _ _ => rfl) _ _

@[simp] theorem performNames_text : (performNames p s).text = s.text :=
  applyEffects_proj State.text (fun _ _ _ => rfl) (fun _ _ => rfl) _ _

@[simp] theorem performNames_nvMemEvents : (performNames p s).nvMemEvents = s.nvMemEvents :=
  applyEffects_proj State.nvMemEvents (fun _ _ _ => rfl) (fun _ _ => rfl) _ _

@[simp] theorem performNames_schedule : (performNames p s).schedule = s.schedule :=
  applyEffects_proj State.schedule (fun _ _ _ => rfl) (fun _ _ => rfl) _ _

@[simp] theorem performNames_outstanding :
    (performNames p s).outstanding = s.outstanding.filter fun d => !p d.name :=
  applyEffects_proj State.outstanding (fun _ _ _ => rfl) (fun _ _ => rfl) _ _

end

/-- What performing accesses leaves alone, a move's settling leaves alone. -/
theorem settleBeforeNext_proj {α : Type} (f : State → α) (h : ∀ p s, f (performNames p s) = f s) (s : State) :
    f (settleBeforeNext s) = f s := by
  obtain ⟨-, hs⟩ | hs := settleBeforeNext_cases s
  · rw [hs]
  · rw [hs, performAll, h]

@[simp] theorem settleBeforeNext_cfg (s : State) : (settleBeforeNext s).cfg = s.cfg :=
  settleBeforeNext_proj State.cfg performNames_cfg s

@[simp] theorem settleBeforeNext_text (s : State) : (settleBeforeNext s).text = s.text :=
  settleBeforeNext_proj State.text performNames_text s

@[simp] theorem settleBeforeNext_nvMemEvents (s : State) : (settleBeforeNext s).nvMemEvents = s.nvMemEvents :=
  settleBeforeNext_proj State.nvMemEvents performNames_nvMemEvents s

/-- Performing the oldest access by a name: it leaves the list and has its effect, or there is none (20_memory.md R68). -/
theorem performOldest_cases (n : Accessor) (s : State) :
    (∃ d ∈ s.outstanding, performOldest n s =
      applyEffect { s with outstanding := s.outstanding.eraseP fun d => d.name == n } d.effect) ∨
      performOldest n s = s := by
  unfold performOldest
  split
  · next d hd => exact .inl ⟨d, List.mem_of_find?_eq_some hd, rfl⟩
  · exact .inr rfl

/-- What neither a write of a general-purpose register, nor one of TCR2_EL1, nor an access leaving the list changes,
performing the oldest access leaves alone. -/
theorem performOldest_proj {α : Type} (f : State → α) (hx : ∀ s t v, f (State.writeX s t v) = f s)
    (hw : ∀ s v, f (State.putTcr2El1 s v) = f s) (ho : ∀ (s : State) l, f { s with outstanding := l } = f s)
    (n : Accessor) (s : State) : f (performOldest n s) = f s := by
  obtain ⟨d, -, hd⟩ | hn := performOldest_cases n s
  · rw [hd]
    obtain ⟨u, -, hu⟩ | ⟨v, -, hv⟩ := applyEffect_cases { s with outstanding := _ } d.effect
    · rw [hu, hx, ho]
    · rw [hv, hw, ho]
  · rw [hn]

@[simp] theorem performOldest_cfg (n : Accessor) (s : State) : (performOldest n s).cfg = s.cfg :=
  performOldest_proj State.cfg (fun _ _ _ => rfl) (fun _ _ => rfl) (fun _ _ => rfl) n s

@[simp] theorem performOldest_text (n : Accessor) (s : State) : (performOldest n s).text = s.text :=
  performOldest_proj State.text (fun _ _ _ => rfl) (fun _ _ => rfl) (fun _ _ => rfl) n s

@[simp] theorem performOldest_nvMemEvents (n : Accessor) (s : State) :
    (performOldest n s).nvMemEvents = s.nvMemEvents :=
  performOldest_proj State.nvMemEvents (fun _ _ _ => rfl) (fun _ _ => rfl) (fun _ _ => rfl) n s

/-! ### What a move and a step can do -/

/-- An instruction executed in program order is one that was fetched, run on the settled state (20_memory.md R69). -/
theorem executeNow_next (s s' : State) (h : executeNow s = .next s') :
    ∃ i, fetch s = .ok i ∧ exec i (settle i s) = .next s' := by
  unfold executeNow at h
  split at h
  · next i hi => exact ⟨i, hi, h⟩
  · cases h

/-- An instruction executed late is an access of R68 that joins the outstanding ones, or is executed in program order. -/
theorem executeLate_next (s s' : State) (h : executeLate s = .next s') :
    ∃ i, fetch s = .ok i ∧ (lateAllowed i s = true ∧ s' = issueLate i s ∨ exec i (settle i s) = .next s') := by
  unfold executeLate at h
  split at h
  · next i hi =>
    split at h
    · next hl =>
      cases h
      exact ⟨i, hi, .inl ⟨hl, rfl⟩⟩
    · exact ⟨i, hi, .inr h⟩
  · cases h

/-- A step that answers a next state is one move, of the schedule's head or of the PE, and the settling after it (log 6). -/
theorem step_next (s s' : State) (h : step s = .next s') :
    ∃ m rest t, (s.schedule = m :: rest ∨ s.schedule = [] ∧ m = .execute ∧ rest = []) ∧
      applyMove m { s with schedule := rest } = .next t ∧ s' = settleBeforeNext t := by
  unfold step at h
  split at h
  · next hs =>
    have he : { s with schedule := [] } = s := by rw [← hs]
    obtain ⟨t, ht, hs'⟩ := settled_next _ _ h
    exact ⟨.execute, [], t, .inr ⟨hs, rfl, rfl⟩, by rwa [he], hs'⟩
  · next m rest hs =>
    obtain ⟨t, ht, hs'⟩ := settled_next _ _ h
    exact ⟨m, rest, t, .inl hs, ht, hs'⟩

/-- The step whose move is known, up to the settling after it (log 6). -/
theorem step_of_schedule (s : State) (m : Move) (rest : List Move) (h : s.schedule = m :: rest) :
    step s = settled (applyMove m { s with schedule := rest }) := by
  unfold step
  rw [h]
  rfl

/-- What holds of the result of each of the eight moves, an instruction executed in program order and one executed late among
them, holds of the state a move answers. -/
theorem applyMove_next (P : State → Prop) (m : Move) (s s' : State) (h : applyMove m s = .next s')
    (hexec : ∀ i, fetch s = .ok i → exec i (settle i s) = .next s' → P s')
    (hlate : ∀ i, fetch s = .ok i → lateAllowed i s = true → P (issueLate i s))
    (hperform : ∀ n, P (performOldest n s)) (hsync : P (synchronize s)) (hinputs : ∀ n, P (setInputs n s))
    (hstore : ∀ a v, P (agentStore a v s)) (hdrop : P (dropCached s)) (hreset : ∀ d, P (warmReset d s)) : P s' := by
  cases m with
  | execute =>
    obtain ⟨i, hi, he⟩ := executeNow_next s s' h
    exact hexec i hi he
  | executeLate =>
    obtain ⟨i, hi, ⟨hl, rfl⟩ | he⟩ := executeLate_next s s' h
    · exact hlate i hi hl
    · exact hexec i hi he
  | perform n =>
    cases h
    exact hperform n
  | synchronize =>
    cases h
    exact hsync
  | setInputs n =>
    cases h
    exact hinputs n
  | agentStore a v =>
    cases h
    exact hstore a v
  | dropCached =>
    cases h
    exact hdrop
  | warmReset d =>
    cases h
    exact hreset d

end Sys2Proof.Machine
end

section
/-! SUPPORT. The machine's invariant (10_state.md R45, R50; 20_memory.md R59, R69; 70 R162, R163): every operation a step is
made of keeps all of it but the clause on what is outstanding before an instruction, which the settling after each move
restores. -/

namespace Sys2Proof.Proofs

open Sys2Proof.Machine Sys2Proof.Safety

/-- The invariant without its clause `late`, which holds between two moves and not in the middle of one. -/
structure InvInMove (s : State) : Prop where
  cfg : s.cfg.wf = true
  stored : withinStorage s.cfg s.tcr2El1
  mem : s.mem.wf = true
  text : s.text.wf = true
  pc : s.pcAligned = true
  el : s.cfg.implementsEL s.el = true
  outstanding : ∀ d ∈ s.outstanding, accessInStorage s.cfg d
  unsynced : ∀ w ∈ s.unsynced, withinStorage s.cfg w
  once : s.unsynced.Nodup ∧ s.unsyncedEff.Nodup ∧ s.cachedEff.Nodup

theorem inv_iff (s : State) : Inv s ↔ InvInMove s ∧ (s.outstanding ≠ [] → nextMayOvertake s = true) :=
  ⟨fun h => ⟨{ h with }, h.late⟩, fun ⟨h, hl⟩ => { h with late := hl }⟩

/-- A merged value lies in StorageMask (10_state.md R45). -/
theorem withinStorage_mergeTcr2 (c : Config) (old v ro : Word) : withinStorage c (mergeTcr2 c old v ro) :=
  mergeTcr2_clear c old v ro

theorem pcAligned_advance (s : State) (h : s.pcAligned = true) : s.advance.pcAligned = true := by
  simp only [State.pcAligned, beq_iff_eq, State.advance_pc] at h ⊢
  have hn := congrArg BitVec.toNat h
  refine BitVec.eq_of_toNat_eq ?_
  simp only [BitVec.extractLsb'_toNat, BitVec.toNat_add, Nat.shiftRight_zero, BitVec.reduceToNat] at hn ⊢
  omega

/-- What Config.wf says of the parameters that Warm reset puts in place (70 R163). -/
theorem resetEL_resetPC_of_wf (c : Config) (h : c.wf = true) :
    c.implementsEL c.resetEL = true ∧ (c.resetPC.extractLsb' 0 2 == 0#2) = true := by
  simp only [Config.wf, Bool.and_eq_true] at h
  exact h.1

namespace InvInMove

variable {s s' : State}

/-! ### The updates -/

theorem writeX (h : InvInMove s) (t : Nat) (v : Word) : InvInMove (s.writeX t v) :=
  { h with }

theorem advance (h : InvInMove s) : InvInMove s.advance :=
  { h with pc := pcAligned_advance s h.pc }

theorem putTcr2El2 (h : InvInMove s) (v : Word) : InvInMove (s.putTcr2El2 v) :=
  { h with }

theorem recordNvMem (h : InvInMove s) (k : NvMemKind) (v : Word) : InvInMove (s.recordNvMem k v) :=
  { h with }

theorem putNvMem (h : InvInMove s) (v : Word) : InvInMove (s.putNvMem v) :=
  { h with mem := memWrite8_wf _ _ _ _ h.mem }

theorem putTcr2El1 (h : InvInMove s) (v : Word) (hv : withinStorage s.cfg v) : InvInMove (s.putTcr2El1 v) where
  cfg := h.cfg
  stored := hv
  mem := h.mem
  text := h.text
  pc := h.pc
  el := h.el
  outstanding := h.outstanding
  unsynced w hw := by
    obtain ⟨-, rfl | rfl⟩ | hw := (mem_putTcr2El1_unsynced s v w).mp hw
    · exact h.stored
    · exact hv
    · exact h.unsynced w hw
  once := nodup_putTcr2El1 s v h.once.1 h.once.2.1 h.once.2.2

theorem fewerOutstanding (h : InvInMove s) (l : List OutstandingAccess) (hl : l ⊆ s.outstanding) :
    InvInMove { s with outstanding := l } :=
  { h with outstanding := fun d hd => h.outstanding d (hl hd) }

/-! ### Performing outstanding accesses -/

theorem applyEffect (h : InvInMove s) (d : OutstandingAccess) (hd : accessInStorage s.cfg d) :
    InvInMove (applyEffect s d.effect) := by
  obtain ⟨t, -, ht⟩ | ⟨v, hv, hw⟩ := applyEffect_cases s d.effect
  · exact ht ▸ h.writeX t _
  · exact hw ▸ h.putTcr2El1 v (hd.2 v hv)

theorem applyEffects (h : InvInMove s) (l : List OutstandingAccess) (hl : ∀ d ∈ l, accessInStorage s.cfg d) :
    InvInMove (applyEffects s l) := by
  induction l generalizing s with
  | nil => exact h
  | cons d l ih =>
    have hc : (Machine.applyEffect s d.effect).cfg = s.cfg := by
      cases d.effect <;> rfl
    refine ih (h.applyEffect d (hl d List.mem_cons_self)) fun e he => ?_
    rw [hc]
    exact hl e (List.mem_cons_of_mem d he)

theorem performNames (h : InvInMove s) (p : Accessor → Bool) : InvInMove (performNames p s) :=
  (h.fewerOutstanding _ List.filter_sublist.subset).applyEffects _
    fun d hd => h.outstanding d (List.mem_of_mem_filter hd)

theorem performOldest (h : InvInMove s) (n : Accessor) : InvInMove (performOldest n s) := by
  obtain ⟨d, hd, hs⟩ | hs := performOldest_cases n s
  · rw [hs]
    exact (h.fewerOutstanding _ List.eraseP_subset).applyEffect d (h.outstanding d hd)
  · rwa [hs]

/-! ### The six instructions -/

theorem exec (h : InvInMove s) (i : Instr) (he : exec i s = .next s') : InvInMove s' := by
  obtain ⟨w, rfl⟩ | ⟨v, ro, rfl⟩ | rfl | rfl | rfl := exec_next i s s' he
  · exact (h.writeX _ w).advance
  · exact (h.putTcr2El1 _ (withinStorage_mergeTcr2 s.cfg s.tcr2El1 v ro)).advance
  · exact (h.putTcr2El2 _).advance
  · exact ((h.writeX _ _).recordNvMem _ _).advance
  · exact ((h.putNvMem _).recordNvMem _ _).advance

/-- What the register may be said to hold fits the register. -/
theorem mayHold (h : InvInMove s) (w : Word) (hw : w ∈ s.mayHold) : withinStorage s.cfg w := by
  obtain rfl | ⟨d, hd, hv⟩ := (mem_mayHold s w).mp hw
  · exact h.stored
  · exact (h.outstanding d hd).2 w hv

theorem lateEffect_withinStorage (i : Instr) (v : Word) (hv : lateEffect i s = .write v) : withinStorage s.cfg v := by
  unfold lateEffect at hv
  split at hv
  · cases hv
  · cases hv
    exact withinStorage_mergeTcr2 s.cfg _ _ _

/-- What an access executed late opens the window for fits the register. -/
theorem lateWindow (h : InvInMove s) (i : Instr) (w : Word) (hw : w ∈ lateWindow i s) : withinStorage s.cfg w := by
  cases he : lateEffect i s with
  | read t => simp [Machine.lateWindow, he] at hw
  | write v =>
    obtain ⟨o, ho, -, rfl | rfl⟩ := (mem_lateWindow s i v w he).mp hw
    · exact h.mayHold w ho
    · exact lateEffect_withinStorage i w he

theorem enqueueLate (h : InvInMove s) (i : Instr) (hi : crossNamed i.accessor = true) :
    InvInMove (enqueueLate i s) where
  cfg := h.cfg
  stored := h.stored
  mem := h.mem
  text := h.text
  pc := h.advance.pc
  el := h.el
  outstanding d hd := by
    rw [enqueueLate_outstanding, List.mem_append, List.mem_singleton] at hd
    obtain hd | rfl := hd
    · exact h.outstanding d hd
    · exact ⟨hi, lateEffect_withinStorage i⟩
  unsynced w hw := by
    rw [enqueueLate_unsynced, mem_rememberAll] at hw
    exact hw.elim (h.lateWindow i w) (h.unsynced w)
  once := ⟨nodup_rememberAll _ _ h.once.1, nodup_rememberAll _ _ h.once.2.1, h.once.2.2⟩

/-! ### The moves -/

theorem synchronize (h : InvInMove s) : InvInMove (synchronize s) :=
  { h.performNames (fun _ => true) with
    unsynced := by simp [Machine.synchronize]
    once := ⟨List.nodup_nil, List.nodup_nil, (h.performNames _).once.2.2⟩ }

theorem setInputs (h : InvInMove s) (n : Inputs) : InvInMove (setInputs n s) :=
  { h with once := ⟨h.once.1, h.once.2.1, nodup_rememberAll _ _ h.once.2.2⟩ }

theorem agentStore (h : InvInMove s) (a : Word) (v : Byte) : InvInMove (agentStore a v s) :=
  { h with mem := Memory.wf_writeByte _ _ _ h.mem a.isLt }

theorem dropCached (h : InvInMove s) : InvInMove (dropCached s) :=
  { h with once := ⟨h.once.1, h.once.2.1, List.nodup_nil⟩ }

theorem warmReset (h : InvInMove s) (d : ResetDraw) : InvInMove (warmReset d s) :=
  { h with
    stored := warmResetValue_clear s.cfg d.u
    pc := (resetEL_resetPC_of_wf s.cfg h.cfg).2
    el := (resetEL_resetPC_of_wf s.cfg h.cfg).1
    outstanding := by simp
    once := ⟨h.once.1, h.once.2.1, nodup_rememberAll _ _ h.once.2.2⟩ }

theorem applyMove (h : InvInMove s) (m : Move) (hm : applyMove m s = .next s') : InvInMove s' := by
  refine applyMove_next InvInMove m s s' hm (fun i _ => (h.performNames _).exec i) (fun i _ hl => ?_)
    h.performOldest h.synchronize h.setInputs h.agentStore h.dropCached h.warmReset
  simp only [lateAllowed, Bool.and_eq_true] at hl
  exact (h.performNames _).enqueueLate i hl.1.2

/-- After the settling the whole invariant holds: effects are outstanding only before an access of R68 (20_memory.md R69). -/
theorem settleBeforeNext (h : InvInMove s) : Inv (settleBeforeNext s) := by
  rw [inv_iff]
  obtain ⟨hn, hs⟩ | hs := settleBeforeNext_cases s
  · rw [hs]
    exact ⟨h, fun _ => hn⟩
  · rw [hs]
    exact ⟨h.performNames _, fun ho => absurd (performAll_outstanding s) ho⟩

end InvInMove

/-- Settles O13: every move keeps all of the invariant but its clause on outstanding accesses, and the settling after the move
restores that clause. -/
theorem stepKeepsTheInvariant : Obligations.StepKeepsTheInvariant := by
  intro s s' hinv hstep
  obtain ⟨m, rest, t, -, hm, rfl⟩ := step_next s s' hstep
  obtain ⟨h, -⟩ := (inv_iff s).mp hinv
  have hrest : InvInMove { s with schedule := rest } := { h with }
  exact (hrest.applyMove m hm).settleBeforeNext

/-! ### What no step changes -/

/-- What O14 says of a state and its successor (00_scope.md R6; 20_memory.md R64, R73). -/
def KeepsParametersAndText (s s' : State) : Prop :=
  s'.cfg = s.cfg ∧ s'.text = s.text ∧ (s'.nvMemEvents = s.nvMemEvents ∨ ∃ k v, s'.nvMemEvents = eventsWith s k v)

theorem KeepsParametersAndText.of_eq {s s' : State} (hc : s'.cfg = s.cfg) (ht : s'.text = s.text)
    (he : s'.nvMemEvents = s.nvMemEvents) : KeepsParametersAndText s s' :=
  ⟨hc, ht, .inl he⟩

/-- Performing outstanding accesses moves neither the NVMem address nor the record. -/
theorem eventsWith_performNames (p : Accessor → Bool) (s : State) (k : NvMemKind) (v : Word) :
    eventsWith (performNames p s) k v = eventsWith s k v := by
  simp only [eventsWith, performNames_nvMemEvents, performNames_inputs]

/-- What follows the performing of outstanding accesses may be compared with the state before it. -/
theorem KeepsParametersAndText.of_performNames {p : Accessor → Bool} {s s' : State}
    (h : KeepsParametersAndText (performNames p s) s') : KeepsParametersAndText s s' := by
  simpa only [KeepsParametersAndText, eventsWith_performNames, performNames_cfg, performNames_text,
    performNames_nvMemEvents] using h

theorem exec_keepsParametersAndText (i : Instr) (s s' : State) (h : exec i s = .next s') :
    KeepsParametersAndText s s' := by
  obtain ⟨w, rfl⟩ | ⟨v, ro, rfl⟩ | rfl | rfl | rfl := exec_next i s s' h
  · exact .of_eq rfl rfl rfl
  · exact .of_eq rfl rfl rfl
  · exact .of_eq rfl rfl rfl
  · exact ⟨rfl, rfl, .inr ⟨.read, _, rfl⟩⟩
  · exact ⟨rfl, rfl, .inr ⟨.write, _, rfl⟩⟩

theorem applyMove_keepsParametersAndText (m : Move) (s s' : State) (h : applyMove m s = .next s') :
    KeepsParametersAndText s s' := by
  have hlate (i : Instr) : KeepsParametersAndText (settleRegisters i s) (issueLate i s) := .of_eq rfl rfl rfl
  have hsync : KeepsParametersAndText (performAll s) (synchronize s) := .of_eq rfl rfl rfl
  exact applyMove_next (KeepsParametersAndText s) m s s' h
    (fun i _ he => (exec_keepsParametersAndText i _ s' he).of_performNames)
    (fun i _ _ => (hlate i).of_performNames)
    (fun n => .of_eq (performOldest_cfg n s) (performOldest_text n s) (performOldest_nvMemEvents n s))
    hsync.of_performNames
    (fun _ => .of_eq rfl rfl rfl) (fun _ _ => .of_eq rfl rfl rfl) (.of_eq rfl rfl rfl) (fun _ => .of_eq rfl rfl rfl)

/-- Settles O14: the settling after a move changes none of the three. -/
theorem stepKeepsParametersAndText : Obligations.StepKeepsParametersAndText := by
  intro s s' hstep
  obtain ⟨m, rest, t, -, hm, rfl⟩ := step_next s s' hstep
  have hmove := applyMove_keepsParametersAndText m { s with schedule := rest } t hm
  rwa [settleBeforeNext_cfg, settleBeforeNext_text, settleBeforeNext_nvMemEvents]

end Sys2Proof.Proofs
end

section
/-! SUPPORT. The masks in numbers and the effective values: which bits NamedMask has (10_state.md R45), when the register is
ignored (R42), what an effective value of 1 rests on (R43), and the value after Warm reset bit by bit (70 R161, R162). -/

namespace Sys2Proof.Machine

/-- HighestEL is EL1 exactly when neither EL2 nor EL3 is implemented (00_scope.md R7). -/
theorem highestEL_eq_el1 (c : Config) : c.highestEL = .el1 ↔ c.haveEL2 = false ∧ c.haveEL3 = false := by
  unfold Config.highestEL
  cases c.haveEL2 <;> cases c.haveEL3 <;> simp

/-- At a position of no named field NamedMask is 0. -/
theorem namedMask_getLsbD_unnamed (c : Config) (k : Nat) (hk : k < 64)
    (h : ∀ f : Field, f.named c = true → f.pos ≠ k) : (namedMask c).getLsbD k = false := by
  rw [namedMask, maskOf_getLsbD _ k hk, List.any_eq_false]
  intro f _ hf
  simp only [Bool.and_eq_true, beq_iff_eq] at hf
  exact h f hf.1 hf.2

/-- The mask 0xC3F of 70 R162(b) holds the class Z fields and no other field. -/
theorem classZMask_getLsbD_pos (f : Field) :
    (0x0000000000000C3F : Word).getLsbD f.pos = decide (f.resetClass = .z) := by
  cases f <;> decide

/-- The value after Warm reset, bit by bit (70 R162). -/
theorem warmResetValue_getLsbD (c : Config) (u : Word) (k : Nat) (hk : k < 64) :
    (warmResetValue c u).getLsbD k =
      (u.getLsbD k && (storageMask c).getLsbD k &&
        !(decide (c.highestEL = .el1) && (0x0000000000000C3F : Word).getLsbD k && (namedMask c).getLsbD k)) := by
  unfold warmResetValue
  split
  · next h =>
    simp only [BitVec.getLsbD_and, BitVec.getLsbD_not, hk, h, decide_true, Bool.true_and]
  · next h =>
    simp only [BitVec.getLsbD_and, h, decide_false, Bool.false_and, Bool.not_false, Bool.and_true]

/-- A named field after Warm reset (70 R161, R162). -/
theorem warmResetValue_getLsbD_named (c : Config) (u : Word) (f : Field) (h : f.named c = true) :
    (warmResetValue c u).getLsbD f.pos =
      if f.resetClass = .z ∧ c.haveEL2 = false ∧ c.haveEL3 = false then false else u.getLsbD f.pos := by
  rw [warmResetValue_getLsbD c u _ f.pos_lt, storageMask_getLsbD_named c f h, namedMask_getLsbD_pos, h,
    classZMask_getLsbD_pos]
  simp only [← highestEL_eq_el1]
  by_cases hz : f.resetClass = .z <;> by_cases hh : c.highestEL = .el1 <;> simp [hz, hh]

/-- A position of no named field after Warm reset (70 R162; 10_state.md R39, R45). -/
theorem warmResetValue_getLsbD_unnamed (c : Config) (u : Word) (k : Nat) (hk : k < 64)
    (h : ∀ f : Field, f.named c = true → f.pos ≠ k) :
    (warmResetValue c u).getLsbD k =
      if c.featTHE = true ∧ c.pttwiRO0 = true ∧ k = 10 then false
      else c.registerPresent && c.res0StorageMask.getLsbD k && u.getLsbD k := by
  rw [warmResetValue_getLsbD c u k hk, storageMask_getLsbD c k hk, namedMask_getLsbD_unnamed c k hk h,
    fixedZeroMask_getLsbD]
  split
  · next hf => simp [hf]
  · next hf =>
    have hz : (c.featTHE && c.pttwiRO0 && decide (k = 10)) = false := by
      rw [Bool.eq_false_iff]
      simpa [and_assoc] using hf
    simp [hz, Bool.and_comm]

/-- With EL1 the highest level a named class Z field is 0 after Warm reset, whatever the draw (70 R161). -/
theorem warmResetValue_classZ (c : Config) (u : Word) (f : Field) (h2 : c.haveEL2 = false) (h3 : c.haveEL3 = false)
    (hz : f.resetClass = .z) (hn : f.named c = true) : (warmResetValue c u).getLsbD f.pos = false := by
  rw [warmResetValue_getLsbD_named c u f hn, if_pos ⟨hz, h2, h3⟩]

/-! ### Effective values -/

/-- TCR2Ignored(), spelled out (10_state.md R41, R42). -/
theorem tcr2Ignored_iff (c : Config) (n : Inputs) :
    tcr2Ignored c n = true ↔
      (n.el2Enabled = true ∧ ¬ (n.isHCRXEL2Enabled = true ∧ n.hcrxTCR2En = true)) ∨
        (c.haveEL3 = true ∧ n.scrTCR2En = false) := by
  simp [tcr2Ignored, effTCR2En, scrDisables, not_and_or, -not_and]

/-- Every effective value of a register that is not in effect is 0 (10_state.md R42, R43). -/
theorem effective_of_not_inEffect (c : Config) (n : Inputs) (w : Word) (h : inEffect c n = false) :
    effective c n w = FieldBits.zero := by
  simp [effective, effD128, h, FieldBits.zero]

theorem FieldBits.zero_get (f : Field) : FieldBits.zero.get f = false := by
  cases f <;> rfl

/-- The effective values depend on the inputs through TCR2Ignored() alone (10_state.md R43). -/
theorem effective_congr (c : Config) (n m : Inputs) (w : Word) (h : tcr2Ignored c n = tcr2Ignored c m) :
    effective c n w = effective c m w := by
  simp only [effective, effD128, inEffect, h]

/-- The effective D128 is the stored bit of a field that is named (10_state.md R43). -/
theorem named_of_effD128 (c : Config) (n : Inputs) (w : Word) (h : effD128 c n w = true) :
    Field.d128.named c = true ∧ w.getLsbD Field.d128.pos = true := by
  simp only [effD128, inEffect, Bool.and_eq_true] at h
  obtain ⟨⟨hf, hp, -⟩, hw⟩ := h
  exact ⟨by simp [Field.named, Field.feature, hf, hp], hw⟩

/-- An effective value of 1 rests on a stored 1 of a field that is named: its own, or D128 (10_state.md R43). -/
theorem named_of_effective_get (c : Config) (n : Inputs) (w : Word) (f : Field)
    (h : (effective c n w).get f = true) :
    ∃ g, (g = f ∨ g = .d128) ∧ g.named c = true ∧ w.getLsbD g.pos = true := by
  by_cases hd : effD128 c n w = true
  · exact ⟨.d128, .inr rfl, named_of_effD128 c n w hd⟩
  · refine ⟨f, .inl rfl, ?_⟩
    cases f <;>
      simp_all [FieldBits.get, effective, inEffect, Field.named, Field.feature, Field.pos]

end Sys2Proof.Machine
end

section
/-! SUPPORT. The six instructions by direction and verdict, and inputs that none of the three chains consults (00_scope.md R8,
R12; 40 R101, R102; 41 R111, R112; 42 R121, R122). -/

namespace Sys2Proof.Machine

open Sys2Proof.Safety

/-! ### The meanings by direction and verdict -/

/-- An MRS is the end of a read under the chain's verdict (40 R100). -/
theorem exec_of_read (i : Instr) (s : State) (h : i.direction = .read) :
    exec i s = completeRead i i.reg (verdictOf i s) s := by
  cases i with
  | mrsTcr2El1 | mrsTcr2El12 | mrsTcr2AliasEl1 => rfl
  | msrTcr2El1 | msrTcr2El12 | msrTcr2AliasEl1 => cases h

/-- An MSR is the end of a write under the chain's verdict and the read-only mask of its name (40 R100; 10_state.md R45). -/
theorem exec_of_write (i : Instr) (s : State) (h : i.direction = .write) :
    exec i s = completeWrite i i.reg (readOnlyFor i s) (verdictOf i s) s := by
  cases i with
  | mrsTcr2El1 | mrsTcr2El12 | mrsTcr2AliasEl1 => cases h
  | msrTcr2El1 | msrTcr2El12 | msrTcr2AliasEl1 => rfl

/-- An instruction whose verdict is the register completes, and leaves memory and TCR2_EL2 alone (40 R101(d), R102). -/
theorem exec_of_go_tcr2El1 (i : Instr) (s : State) (h : verdictOf i s = .go .tcr2El1) :
    ∃ s', exec i s = .next s' ∧ s'.mem = s.mem ∧ s'.tcr2El2 = s.tcr2El2 := by
  cases hd : i.direction with
  | read =>
    rw [exec_of_read i s hd, h]
    exact ⟨_, rfl, rfl, rfl⟩
  | write =>
    rw [exec_of_write i s hd, h]
    exact ⟨_, rfl, rfl, rfl⟩

theorem exec_of_undefined (i : Instr) (s : State) (h : verdictOf i s = .undefined) :
    exec i s = raiseUndefined i s := by
  cases hd : i.direction with
  | read => rw [exec_of_read i s hd, h, (completeRead_stop i _ s).1]
  | write => rw [exec_of_write i s hd, h, (completeWrite_stop i _ _ s).1]

theorem exec_of_trapEl3 (i : Instr) (s : State) (h : verdictOf i s = .trapEl3) :
    exec i s = raiseTrap .el3 i s := by
  cases hd : i.direction with
  | read => rw [exec_of_read i s hd, h, (completeRead_stop i _ s).2.2]
  | write => rw [exec_of_write i s hd, h, (completeWrite_stop i _ _ s).2.2]

/-- The chain of the names TCR2_EL1 and TCR2ALIAS_EL1, behind the accessor condition, is the shared one, with TRVM or TVM and
the fine-grained test of the instruction. -/
theorem verdictOf_eq_verdictTcr2 (i : Instr) (s : State) (ha : i.accessor ≠ .tcr2El12) :
    verdictOf i s = if i.accessor = .tcr2AliasEl1 ∧ s.cfg.featSRMASK = false then .undefined
      else verdictTcr2 s (vmTrapBit i s) (fineTrapTest i s) := by
  cases i with
  | mrsTcr2El1 | msrTcr2El1 => rfl
  | mrsTcr2El12 | msrTcr2El12 => exact absurd rfl ha
  | mrsTcr2AliasEl1 | msrTcr2AliasEl1 =>
    unfold verdictOf verdictMrsTcr2AliasEl1 verdictMsrTcr2AliasEl1
    cases s.cfg.featSRMASK <;> rfl

/-- The chain of the name TCR2_EL12 is one for both directions (41 R111, R112). -/
theorem verdictOf_eq_verdictTcr2El12 (i : Instr) (s : State) (ha : i.accessor = .tcr2El12) :
    verdictOf i s = verdictTcr2El12 s := by
  cases i with
  | mrsTcr2El12 | msrTcr2El12 => rfl
  | mrsTcr2El1 | msrTcr2El1 | mrsTcr2AliasEl1 | msrTcr2AliasEl1 => cases ha

/-! ### Inputs that are not consulted -/

/-- The NVMem access depends on NVMemBase alone of the inputs (20_memory.md R60, R63, R65, R73). -/
theorem nvMem_congr (s : State) (n : Inputs) (hb : n.nvMemBase = s.inputs.nvMemBase) :
    ({ s with inputs := n }).nvMemAddr = s.nvMemAddr ∧ ({ s with inputs := n }).nvMemAligned = s.nvMemAligned ∧
      ({ s with inputs := n }).nvMemAdmitted = s.nvMemAdmitted ∧ ({ s with inputs := n }).nvMemOnText = s.nvMemOnText ∧
      ({ s with inputs := n }).nvMemValue = s.nvMemValue := by
  simp only [State.nvMemAddr, State.nvMemAligned, State.nvMemAdmitted, State.nvMemOnText, State.nvMemValue, hb, and_self]

theorem recordNvMem_withInputs (s : State) (n : Inputs) (k : NvMemKind) (v : Word)
    (hb : n.nvMemBase = s.inputs.nvMemBase) :
    ({ s with inputs := n }).recordNvMem k v = { s.recordNvMem k v with inputs := n } := by
  simp only [State.recordNvMem, (nvMem_congr s n hb).1]

theorem completeNvMemRead_withInputs (i : Instr) (t : Nat) (s : State) (n : Inputs)
    (hb : n.nvMemBase = s.inputs.nvMemBase) :
    completeNvMemRead i t { s with inputs := n } = withInputs n (completeNvMemRead i t s) := by
  obtain ⟨-, hal, had, -, hv⟩ := nvMem_congr s n hb
  unfold completeNvMemRead
  rw [hal, had, hv, hb]
  split
  · rfl
  · split
    · rfl
    · exact congrArg (fun q => Host.Outcome.next (State.advance q))
        (recordNvMem_withInputs (s.writeX t s.nvMemValue) n .read s.nvMemValue hb)

theorem completeNvMemWrite_withInputs (i : Instr) (t : Nat) (s : State) (n : Inputs)
    (hb : n.nvMemBase = s.inputs.nvMemBase) :
    completeNvMemWrite i t { s with inputs := n } = withInputs n (completeNvMemWrite i t s) := by
  obtain ⟨haddr, hal, had, hon, -⟩ := nvMem_congr s n hb
  have hput : ({ s with inputs := n }).putNvMem (s.readX t) = { s.putNvMem (s.readX t) with inputs := n } := by
    simp only [State.putNvMem, haddr]
  have hrec := recordNvMem_withInputs (s.putNvMem (s.readX t)) n .write (s.readX t) hb
  rw [← hput] at hrec
  unfold completeNvMemWrite
  rw [hal, had, hon, haddr, hb]
  split
  · rfl
  · split
    · rfl
    · split
      · rfl
      · exact congrArg (fun q => Host.Outcome.next (State.advance q)) hrec

/-- An MRS under a given verdict depends on NVMemBase alone of the inputs (00_scope.md R12). -/
theorem completeRead_withInputs (i : Instr) (t : Nat) (v : Verdict) (s : State) (n : Inputs)
    (hb : n.nvMemBase = s.inputs.nvMemBase) :
    completeRead i t v { s with inputs := n } = withInputs n (completeRead i t v s) := by
  cases v with
  | undefined | trapEl2 | trapEl3 => rfl
  | go p =>
    cases p with
    | tcr2El1 | tcr2El2 => rfl
    | nvMem => exact completeNvMemRead_withInputs i t s n hb

/-- An MSR under a given verdict and mask depends on NVMemBase and, by the effective values that join the histories, on
TCR2Ignored() (00_scope.md R12; 70 R167). -/
theorem completeWrite_withInputs (i : Instr) (t : Nat) (ro : Word) (v : Verdict) (s : State) (n : Inputs)
    (hb : n.nvMemBase = s.inputs.nvMemBase) (he : tcr2Ignored s.cfg n = tcr2Ignored s.cfg s.inputs) :
    completeWrite i t ro v { s with inputs := n } = withInputs n (completeWrite i t ro v s) := by
  cases v with
  | undefined | trapEl2 | trapEl3 => rfl
  | go p =>
    cases p with
    | tcr2El1 =>
      have heff : effective s.cfg n = effective s.cfg s.inputs := funext fun w => effective_congr _ _ _ w he
      simp only [completeWrite, withInputs, State.putTcr2El1, State.openWindow, State.eff, heff]
      rfl
    | tcr2El2 => rfl
    | nvMem => exact completeNvMemWrite_withInputs i t s n hb

/-- An instruction whose verdict, mask, NVMem address and effective values do not depend on how the inputs changed ends as
before, but for those inputs (00_scope.md R12). -/
theorem exec_withInputs (i : Instr) (s : State) (n : Inputs) (hv : verdictOf i { s with inputs := n } = verdictOf i s)
    (hr : readOnlyFor i { s with inputs := n } = readOnlyFor i s) (hb : n.nvMemBase = s.inputs.nvMemBase)
    (he : tcr2Ignored s.cfg n = tcr2Ignored s.cfg s.inputs) :
    exec i { s with inputs := n } = withInputs n (exec i s) := by
  cases hd : i.direction with
  | read => rw [exec_of_read i _ hd, exec_of_read i _ hd, hv, completeRead_withInputs _ _ _ _ _ hb]
  | write => rw [exec_of_write i _ hd, exec_of_write i _ hd, hv, hr, completeWrite_withInputs _ _ _ _ _ _ hb he]

/-- ROMask() reads the masking enable and TCR2MASK_EL1 alone of the inputs (10_state.md R44). -/
theorem readOnlyFor_congr (i : Instr) (s : State) (n : Inputs) (hm : n.srMaskingEnabled = s.inputs.srMaskingEnabled)
    (hf : n.tcr2Mask = s.inputs.tcr2Mask) : readOnlyFor i { s with inputs := n } = readOnlyFor i s := by
  simp only [readOnlyFor, roMask, hm, hf]

end Sys2Proof.Machine
end

section
/-! SUPPORT. The obligations of 00_scope.md about reset, the masks, the effective values and the inputs that are not consulted
(R2, R8, R12). -/

namespace Sys2Proof.Proofs

open Sys2Proof.Machine Sys2Proof.Safety

/-! ### Warm reset -/

/-- A Warm reset leaves nothing outstanding, so the step is the move alone (log 21). -/
theorem step_warmReset (s : State) (d : ResetDraw) (rest : List Move) (h : s.schedule = .warmReset d :: rest) :
    step s = .next (warmReset d { s with schedule := rest }) := by
  rw [step_of_schedule s _ rest h]
  exact congrArg _ (settleBeforeNext_nil _ rfl)

/-- Settles O10, from the value after Warm reset bit by bit. -/
theorem warmResetFollowsTheDraw : Obligations.WarmResetFollowsTheDraw := by
  intro s d rest h
  exact ⟨_, step_warmReset s d rest h, warmResetValue_getLsbD_named s.cfg d.u,
    warmResetValue_getLsbD_unnamed s.cfg d.u, rfl, rfl, rfl, rfl, rfl, rfl, rfl, rfl, rfl, rfl⟩

/-- With neither EL2 nor EL3 no class Z field is effective after Warm reset: its effective value rests on its own stored bit or
on D128's, both of class Z (70 R161). -/
theorem effective_warmResetValue_classZ (c : Config) (n : Inputs) (u : Word) (f : Field) (h2 : c.haveEL2 = false)
    (h3 : c.haveEL3 = false) (hf : f.resetClass = .z) : (effective c n (warmResetValue c u)).get f = false := by
  rw [Bool.eq_false_iff]
  intro he
  obtain ⟨g, hg, hn, hb⟩ := named_of_effective_get c n _ f he
  have hz : g.resetClass = .z := by
    obtain rfl | rfl := hg
    · exact hf
    · rfl
  rw [warmResetValue_classZ c u g h2 h3 hz hn] at hb
  cases hb

/-- DisCH1 and DisCH0 are effective only while D128 is (10_state.md R29, R30, R43). -/
theorem effective_disCH_of_d128 (c : Config) (n : Inputs) (w : Word) (h : (effective c n w).d128 = false) :
    (effective c n w).disCH1 = false ∧ (effective c n w).disCH0 = false := by
  have hd : effD128 c n w = false := h
  simp [effective, hd]

/-- Settles O12: DisCH1 and DisCH0, of class U, act only under D128, of class Z. -/
theorem translationStartsPlain : Obligations.TranslationStartsPlain := by
  intro s d h2 h3 hen
  have hz (f : Field) (hf : f.resetClass = .z) : (warmReset d s).eff.get f = false :=
    effective_warmResetValue_classZ s.cfg s.inputs d.u f h2 h3 hf
  refine ⟨?_, hz .haft rfl, hz .pttwi rfl, hz .d128 rfl, hz .aie rfl, hz .poe rfl, hz .e0poe rfl, hz .pie rfl,
    hz .pnch rfl, effective_disCH_of_d128 _ _ _ (hz .d128 rfl)⟩
  rw [Bool.eq_false_iff, ne_eq, tcr2Ignored_iff, hen, h3]
  simp

/-! ### EL1 without EL2 -/

/-- Without EL2 in force the shared chain tests `SCR_EL3.TCR2En` alone at EL1 (40 R101, R102). -/
theorem verdictTcr2_el1_without_el2 (s : State) (vm ft : Bool) (hp : s.cfg.registerPresent = true) (hl : s.el = .el1)
    (hen : s.inputs.el2Enabled = false) (hnv : s.inputs.nvx = 0b000#3) :
    verdictTcr2 s vm ft = el3Gate s (.go .tcr2El1) := by
  simp [verdictTcr2, el3Gate, hp, hl, hen, hnv]

/-- The two tests of `SCR_EL3.TCR2En` let an access pass exactly when it does not disable the register. -/
theorem el3Gate_of_not_scrDisabled (s : State) (v : Verdict) (h : ¬ ScrDisabled s) : el3Gate s v = v := by
  have h' : (s.cfg.haveEL3 && !s.inputs.scrTCR2En) = false := by
    rw [Bool.eq_false_iff]
    simpa [ScrDisabled] using h
  unfold el3Gate
  rw [Bool.and_right_comm, h']
  rfl

/-- With EL3 absent they stop nothing (00_scope.md R12). -/
theorem el3Gate_of_no_el3 (s : State) (v : Verdict) (h3 : s.cfg.haveEL3 = false) : el3Gate s v = v :=
  el3Gate_of_not_scrDisabled s v fun h => Bool.false_ne_true (h3.symm.trans h.1)

/-- Where it disables the register they stop the access, as Undefined or by the trap to EL3 (60 R134). -/
theorem el3Gate_of_scrDisabled (s : State) (v : Verdict) (h : ScrDisabled s) :
    el3Gate s v = .undefined ∨ el3Gate s v = .trapEl3 := by
  obtain ⟨h3, hscr⟩ := h
  unfold el3Gate
  rw [h3, hscr]
  cases s.inputs.el3SDDUndefPriority <;> cases s.inputs.el3SDDUndef <;> simp

/-- Settles O37: without EL2 the chain at EL1 is the gate of `SCR_EL3.TCR2En` before the register. -/
theorem withoutEl2OnlyScrStops : Obligations.WithoutEl2OnlyScrStops := by
  intro i s hcons h2 hl ha himp
  obtain ⟨hen, -, hnv, -⟩ := hcons.noEl2 h2
  obtain ⟨htcr2, haa64, -, hsr⟩ := himp
  have hp : s.cfg.registerPresent = true := by simp [Config.registerPresent, htcr2, haa64]
  have hverdict : verdictOf i s = el3Gate s (.go .tcr2El1) := by
    rw [verdictOf_eq_verdictTcr2 i s ha, if_neg (by rintro ⟨hi, hf⟩; simp [hsr hi] at hf),
      verdictTcr2_el1_without_el2 s _ _ hp hl hen hnv]
  by_cases hscr : ScrDisabled s
  · obtain hu | ht := el3Gate_of_scrDisabled s (.go .tcr2El1) hscr
    · simp [exec_of_undefined i s (hverdict.trans hu), raiseUndefined, hscr]
    · simp [exec_of_trapEl3 i s (hverdict.trans ht), raiseTrap, hscr]
  · obtain ⟨s', hs', hframe⟩ := exec_of_go_tcr2El1 i s (hverdict.trans (el3Gate_of_not_scrDisabled s _ hscr))
    simp [hs', hframe, hscr]

/-! ### Controls that are not consulted -/

/-- The inputs with other values of the five that EL3 owns. -/
def withEl3Controls (n : Inputs) (p q a b c : Bool) : Inputs :=
  { n with el3SDDUndefPriority := p, el3SDDUndef := q, scrTCR2En := a, scrFGTEn := b, scrFGTEn2 := c }

section
variable (i : Instr) (s : State) (p q a b c : Bool)

/-- With EL3 absent the shared chain sees no input of EL3 (40 R101, R102; 42 R121, R122). -/
theorem verdictTcr2_withEl3Controls (vm ft : Bool) (h3 : s.cfg.haveEL3 = false) :
    verdictTcr2 { s with inputs := withEl3Controls s.inputs p q a b c } vm ft = verdictTcr2 s vm ft := by
  cases hl : s.el with
  | el0 | el3 => simp only [verdictTcr2, hl]
  | el1 => simp [verdictTcr2, withEl3Controls, hl, h3]
  | el2 =>
    simp only [verdictTcr2, hl, el3Gate_of_no_el3, h3]
    rfl

/-- Nor does the chain of the name TCR2_EL12 (41 R111, R112). -/
theorem verdictTcr2El12_withEl3Controls (h3 : s.cfg.haveEL3 = false) :
    verdictTcr2El12 { s with inputs := withEl3Controls s.inputs p q a b c } = verdictTcr2El12 s := by
  cases hl : s.el with
  | el0 => simp only [verdictTcr2El12, hl]
  | el1 | el2 | el3 =>
    simp only [verdictTcr2El12, hl, el3Gate_of_no_el3, h3]
    rfl

/-- Nor do the fine-grained trap tests. -/
theorem fineTrapTest_withEl3Controls (h3 : s.cfg.haveEL3 = false) :
    fineTrapTest i { s with inputs := withEl3Controls s.inputs p q a b c } = fineTrapTest i s := by
  simp only [fineTrapTest, withEl3Controls, h3, Bool.not_false, Bool.true_or, Bool.false_and]

theorem verdictOf_withEl3Controls (h3 : s.cfg.haveEL3 = false) :
    verdictOf i { s with inputs := withEl3Controls s.inputs p q a b c } = verdictOf i s := by
  by_cases ha : i.accessor = .tcr2El12
  · rw [verdictOf_eq_verdictTcr2El12 i _ ha, verdictOf_eq_verdictTcr2El12 i _ ha,
      verdictTcr2El12_withEl3Controls s p q a b c h3]
  · rw [verdictOf_eq_verdictTcr2 i _ ha, verdictOf_eq_verdictTcr2 i _ ha, fineTrapTest_withEl3Controls i s p q a b c h3,
      verdictTcr2_withEl3Controls s p q a b c _ _ h3]
    rfl

/-- With EL3 absent `SCR_EL3.TCR2En` does not decide whether the register is ignored (10_state.md R42). -/
theorem tcr2Ignored_withEl3Controls (h3 : s.cfg.haveEL3 = false) :
    tcr2Ignored s.cfg (withEl3Controls s.inputs p q a b c) = tcr2Ignored s.cfg s.inputs := by
  simp only [tcr2Ignored, scrDisables, effTCR2En, withEl3Controls, h3, Bool.false_and]

end

/-- Settles O42: every test of an EL3 input is guarded by HaveEL(EL3). -/
theorem absentEl3IsNotConsulted : Obligations.AbsentEl3IsNotConsulted := by
  intro i s p q a b c h3
  exact exec_withInputs i s (withEl3Controls s.inputs p q a b c) (verdictOf_withEl3Controls i s p q a b c h3)
    (readOnlyFor_congr i s _ rfl rfl) rfl (tcr2Ignored_withEl3Controls s p q a b c h3)

/-- The inputs with other values of the eight EL2 trap controls. -/
def withEl2Controls (n : Inputs) (a b c d e f g h : Bool) : Inputs :=
  { n with
    hcrTRVM := a, hcrTVM := b, hfgrtrTcrEl1 := c, hfgwtrTcrEl1 := d, hfgrtr2NAlias := e, hfgwtr2NAlias := f,
    isHCRXEL2Enabled := g, hcrxTCR2En := h }

section
variable (i : Instr) (s : State) (a b c d e f g h : Bool)

/-- With EL2 disabled the shared chain sees no EL2 trap control, TRVM, TVM and the fine-grained test among them (40 R101, R102;
42 R121, R122). -/
theorem verdictTcr2_withEl2Controls (vm vm' ft ft' : Bool) (hen : s.inputs.el2Enabled = false) :
    verdictTcr2 { s with inputs := withEl2Controls s.inputs a b c d e f g h } vm' ft' = verdictTcr2 s vm ft := by
  simp only [verdictTcr2, el3Gate, withEl2Controls, hen, Bool.false_and]

theorem verdictOf_withEl2Controls (hen : s.inputs.el2Enabled = false) :
    verdictOf i { s with inputs := withEl2Controls s.inputs a b c d e f g h } = verdictOf i s := by
  by_cases ha : i.accessor = .tcr2El12
  · rw [verdictOf_eq_verdictTcr2El12 i _ ha, verdictOf_eq_verdictTcr2El12 i _ ha]
    rfl
  · rw [verdictOf_eq_verdictTcr2 i _ ha, verdictOf_eq_verdictTcr2 i _ ha,
      verdictTcr2_withEl2Controls s a b c d e f g h (vmTrapBit i s) _ (fineTrapTest i s) _ hen]

/-- With EL2 disabled HCRX_EL2 does not decide whether the register is ignored (10_state.md R42). -/
theorem tcr2Ignored_withEl2Controls (hen : s.inputs.el2Enabled = false) :
    tcr2Ignored s.cfg (withEl2Controls s.inputs a b c d e f g h) = tcr2Ignored s.cfg s.inputs := by
  simp only [tcr2Ignored, scrDisables, withEl2Controls, hen, Bool.false_and]

end

/-- Settles O43: every test of an EL2 trap control is guarded by EL2Enabled(). -/
theorem disabledEl2IsNotConsulted : Obligations.DisabledEl2IsNotConsulted := by
  intro i s a b c d e f g h hen
  exact exec_withInputs i s (withEl2Controls s.inputs a b c d e f g h)
    (verdictOf_withEl2Controls i s a b c d e f g h hen) (readOnlyFor_congr i s _ rfl rfl) rfl
    (tcr2Ignored_withEl2Controls s a b c d e f g h hen)

/-! ### The masks and the effective values -/

/-- Two bits under one condition are two conditional bits. -/
theorem ite_or_zero (b : Bool) (v w : Word) :
    (if b then v ||| w else 0) = (if b then v else 0) ||| (if b then w else 0) := by
  cases b <;> simp

/-- Settles O39: each number is the union of the positions of its feature's fields. -/
theorem namedMaskByFeature : Obligations.NamedMaskByFeature := by
  intro c
  cases hp : c.registerPresent with
  | false => exact (absent_masks c hp).1
  | true =>
    have hthe : (0x300001 : Word) = BitVec.twoPow 64 21 ||| BitVec.twoPow 64 20 ||| BitVec.twoPow 64 0 := by decide
    have hasid : (0x70000 : Word) = BitVec.twoPow 64 18 ||| BitVec.twoPow 64 17 ||| BitVec.twoPow 64 16 := by decide
    have hd128 : (0xC020 : Word) = BitVec.twoPow 64 15 ||| BitVec.twoPow 64 14 ||| BitVec.twoPow 64 5 := by decide
    have hpoe : (0xC : Word) = BitVec.twoPow 64 3 ||| BitVec.twoPow 64 2 := by decide
    have hro : (0x400 : Word) = BitVec.twoPow 64 10 := by decide
    have hhaft : (0x800 : Word) = BitVec.twoPow 64 11 := by decide
    have haie : (0x10 : Word) = BitVec.twoPow 64 4 := by decide
    have hpie : (0x2 : Word) = BitVec.twoPow 64 1 := by decide
    rw [if_neg (by decide), hthe, hasid, hd128, hpoe, hro, hhaft, haie, hpie]
    simp only [namedMask, maskOf, Field.all, maskOver, Field.named, Field.feature, Field.pos, hp, Bool.true_and,
      Bool.and_true, ite_or_zero]
    ac_rfl

/-- Every field of an ignored register is "treated as zero" (10_state.md R42). -/
theorem effective_get_of_ignored (c : Config) (n : Inputs) (w : Word) (f : Field) (h : tcr2Ignored c n = true) :
    (effective c n w).get f = false := by
  rw [effective_of_not_inEffect c n w (by simp [inEffect, h]), FieldBits.zero_get]

/-- Settles O53: R42 spelled out, and neither an ignored nor an absent register is in effect. -/
theorem ignoredFieldsActAsZero : Obligations.IgnoredFieldsActAsZero := by
  intro c n w
  refine ⟨tcr2Ignored_iff c n, fun h f => effective_get_of_ignored c n w f h, fun hp => ?_⟩
  have hs : storageMask c = 0 := (absent_masks c hp).2
  refine ⟨hs, by simp [warmResetValue, hs], fun old ro => by simp [mergeTcr2, hs], fun f => ?_⟩
  rw [effective_absent c n w hp, FieldBits.zero_get]

end Sys2Proof.Proofs
end

section
/-! SUPPORT. The six instructions in the terms of the claims: what each of the six completions leaves (40 R100), when the NVMem
access is ready (20_memory.md R63, R65, R73), and which states send an access to which place (40 R101, R102; 41 R111, R112; 42
R120 to R122). -/

namespace Sys2Proof.Proofs

open Sys2Proof.Machine Sys2Proof.Safety

/-! ### The NVMem access -/

/-- A value made of eight bytes has those bytes (20_memory.md R62). -/
theorem valueByte_valueOfBytes (b : Nat → Byte) (k : Nat) (hk : k < 8) : valueByte (valueOfBytes b) k = b k := by
  refine BitVec.eq_of_getLsbD_eq fun j hj => ?_
  simp only [valueByte, valueOfBytes, BitVec.getLsbD_extractLsb', BitVec.getLsbD_append, hj, decide_true, Bool.true_and]
  interval_cases k <;> grind

/-- The byte of rank `byteRank be k` in the value of MemRead is the one at offset `k` (20_memory.md R62). -/
theorem valueByte_memRead8 (be : Bool) (m : Memory) (a : Word) (k : Nat) (hk : k < 8) :
    valueByte (memRead8 be m a) (byteRank be k) = m.readByte (byteAddr a k) := by
  rw [memRead8, valueByte_valueOfBytes _ _ (byteRank_lt be k hk), byteRank_byteRank be k hk]

/-- The access is ready where neither the refusal of R63 nor the stuck case of R65 applies (20_memory.md). -/
theorem nvMemReady_iff (s : State) : NvMemReady s ↔ s.nvMemAligned = true ∧ s.nvMemAdmitted = true := by
  simp only [NvMemReady, nvMemByte, State.nvMemAligned, State.nvMemAdmitted, admits, beq_iff_eq, List.all_eq_true,
    List.mem_range, List.any_eq_true, Bool.and_eq_true, decide_eq_true_eq]
  rfl

/-- No byte of the access holds program text where the refusal of R73 does not apply (20_memory.md). -/
theorem nvMemClearOfText_iff (s : State) : NvMemClearOfText s ↔ s.nvMemOnText = false := by
  simp [NvMemClearOfText, nvMemByte, State.nvMemOnText, State.nvMemAddr]

/-! ### What each completion leaves -/

theorem takesValue_writeX (s : State) (t : Nat) (v : Word) : TakesValue s (s.writeX t v) t v :=
  ⟨fun u hu => State.writeX_readX_of_ne s t u v hu, State.writeX_readX_self s t v⟩

theorem readsInto_writeX (s : State) (t : Nat) (v : Word) : ReadsInto s (s.writeX t v).advance t v :=
  ⟨rfl, takesValue_writeX s t v⟩

theorem readsNvMem_writeX (s : State) (t : Nat) :
    ReadsNvMem s ((s.writeX t s.nvMemValue).recordNvMem .read s.nvMemValue).advance t s.nvMemValue :=
  ⟨rfl, takesValue_writeX s t s.nvMemValue, valueByte_memRead8 s.cfg.nvMemBigEndian s.mem s.nvMemAddr⟩

theorem writesTcr2El1_putTcr2El1 (s : State) (v : Word) : WritesTcr2El1 s (s.putTcr2El1 v).advance v :=
  ⟨rfl, mem_putTcr2El1_unsynced s v, mem_putTcr2El1_unsyncedEff s v, fun e => mem_remember s.eff e s.cachedEff⟩

theorem storesNvMem_putNvMem (s : State) (v : Word) :
    StoresNvMem s ((s.putNvMem v).recordNvMem .write v).advance v :=
  ⟨rfl, readByte_memWrite8 s.cfg.nvMemBigEndian s.mem s.nvMemAddr v,
    readByte_memWrite8_frame s.cfg.nvMemBigEndian s.mem s.nvMemAddr v⟩

/-! ### The outcome of an instruction, by direction and verdict -/

section
variable (i : Instr) (s : State)

theorem exec_of_trapEl2 (h : verdictOf i s = .trapEl2) : exec i s = raiseTrap .el2 i s := by
  cases hd : i.direction with
  | read => rw [exec_of_read i s hd, h, (completeRead_stop i _ s).2.1]
  | write => rw [exec_of_write i s hd, h, (completeWrite_stop i _ _ s).2.1]

/-- A chain that sends the access nowhere ends in one of the three faults (60 R131, R132). -/
theorem exec_of_not_go (h : ∀ p, verdictOf i s ≠ .go p) :
    exec i s = raiseUndefined i s ∨ exec i s = raiseTrap .el2 i s ∨ exec i s = raiseTrap .el3 i s := by
  cases hv : verdictOf i s with
  | undefined => exact .inl (exec_of_undefined i s hv)
  | trapEl2 => exact .inr (.inl (exec_of_trapEl2 i s hv))
  | trapEl3 => exact .inr (.inr (exec_of_trapEl3 i s hv))
  | go p => exact absurd hv (h p)

section
variable (hd : i.direction = .read)
include hd

theorem mrs_reads_tcr2El1 (h : verdictOf i s = .go .tcr2El1) :
    ∃ s', exec i s = .next s' ∧ ReadsInto s s' i.reg s.tcr2El1 :=
  ⟨_, by rw [exec_of_read i s hd, h]; rfl, readsInto_writeX s _ _⟩

theorem mrs_reads_tcr2El2 (h : verdictOf i s = .go .tcr2El2) :
    ∃ s', exec i s = .next s' ∧ ReadsInto s s' i.reg s.tcr2El2 :=
  ⟨_, by rw [exec_of_read i s hd, h]; rfl, readsInto_writeX s _ _⟩

theorem mrs_reads_nvMem (h : verdictOf i s = .go .nvMem) (hr : NvMemReady s) :
    ∃ s' v, exec i s = .next s' ∧ ReadsNvMem s s' i.reg v := by
  obtain ⟨hal, had⟩ := (nvMemReady_iff s).mp hr
  exact ⟨_, _, by rw [exec_of_read i s hd, h, completeRead, completeNvMemRead, hal, had]; rfl, readsNvMem_writeX s _⟩

end

section
variable (hd : i.direction = .write)
include hd

theorem msr_writes_tcr2El1 (h : verdictOf i s = .go .tcr2El1) :
    ∃ s', exec i s = .next s' ∧ WritesTcr2El1 s s' (mergedValue i s) :=
  ⟨_, by rw [exec_of_write i s hd, h]; rfl, writesTcr2El1_putTcr2El1 s _⟩

theorem msr_writes_tcr2El2 (h : verdictOf i s = .go .tcr2El2) :
    ∃ s', exec i s = .next s' ∧ WritesTcr2El2 s s' (s.readX i.reg) :=
  ⟨_, by rw [exec_of_write i s hd, h]; rfl, rfl⟩

theorem msr_stores_nvMem (h : verdictOf i s = .go .nvMem) (hr : NvMemReady s) (ht : NvMemClearOfText s) :
    ∃ s', exec i s = .next s' ∧ StoresNvMem s s' (s.readX i.reg) := by
  obtain ⟨hal, had⟩ := (nvMemReady_iff s).mp hr
  have hon := (nvMemClearOfText_iff s).mp ht
  exact ⟨_, by rw [exec_of_write i s hd, h, completeWrite, completeNvMemWrite, hal, had, hon]; rfl,
    storesNvMem_putNvMem s _⟩

end

/-- An access that is directed to memory and does not complete there ends in one of the three stops (20_memory.md R63, R65,
R73). -/
theorem exec_nvMem_stops (h : verdictOf i s = .go .nvMem)
    (hn : ¬ (NvMemReady s ∧ (i.direction = .write → NvMemClearOfText s))) :
    exec i s = .refused (.nvMemBaseMisaligned s.inputs.nvMemBase) ∨
      exec i s = .fault (.nvMemNotAdmitted s.pc (encode i)) ∨ exec i s = .refused (.nvMemWriteOntoText s.nvMemAddr) := by
  rw [nvMemReady_iff, nvMemClearOfText_iff] at hn
  cases hd : i.direction with
  | read =>
    rw [exec_of_read i s hd, h, completeRead, completeNvMemRead]
    cases hal : s.nvMemAligned with
    | false => exact .inl rfl
    | true =>
      cases had : s.nvMemAdmitted with
      | false => exact .inr (.inl rfl)
      | true => simp [hal, had, hd] at hn
  | write =>
    rw [exec_of_write i s hd, h, completeWrite, completeNvMemWrite]
    cases hal : s.nvMemAligned with
    | false => exact .inl rfl
    | true =>
      cases had : s.nvMemAdmitted with
      | false => exact .inr (.inl rfl)
      | true =>
        cases hon : s.nvMemOnText with
        | true => exact .inr (.inr rfl)
        | false => simp [hal, had, hon] at hn

end

/-! ### Where the chains send an access -/

/-- The register condition and the accessor condition (30_encoding.md R85, R86). -/
theorem implemented_iff (c : Config) (i : Instr) :
    Implemented c i ↔ c.registerPresent = true ∧ (i.accessor = .tcr2El12 → c.featVHE = true) ∧
      (i.accessor = .tcr2AliasEl1 → c.featSRMASK = true) := by
  simp [Implemented, Config.registerPresent, and_assoc]

section
variable (i : Instr) (s : State)

/-- Without its register and accessor condition an access is Undefined before anything else (30_encoding.md R85, R86). -/
theorem verdictOf_of_not_implemented (h : ¬ Implemented s.cfg i) : verdictOf i s = .undefined := by
  rw [implemented_iff] at h
  by_cases ha : i.accessor = .tcr2El12
  · rw [verdictOf_eq_verdictTcr2El12 i s ha, verdictTcr2El12]
    cases hv : s.cfg.featVHE with
    | false => rfl
    | true =>
      have hp : s.cfg.registerPresent = false := by simpa [ha, hv] using h
      simp [hp]
  · rw [verdictOf_eq_verdictTcr2 i s ha]
    split
    · rfl
    · next hs =>
      have hp : s.cfg.registerPresent = false := by
        simp only [ha, false_implies, true_and, not_and] at h hs
        rw [← Bool.not_eq_true]
        exact fun hp => h hp fun hi => Bool.not_eq_false _ ▸ hs hi
      simp [verdictTcr2, hp]

/-- With them, an access by the name TCR2_EL1 or TCR2ALIAS_EL1 follows the shared chain. -/
theorem verdictOf_of_implemented (h : Implemented s.cfg i) (ha : i.accessor ≠ .tcr2El12) :
    verdictOf i s = verdictTcr2 s (vmTrapBit i s) (fineTrapTest i s) := by
  obtain ⟨-, -, hsr⟩ := (implemented_iff s.cfg i).mp h
  rw [verdictOf_eq_verdictTcr2 i s ha, if_neg]
  rintro ⟨hi, hf⟩
  simp [hsr hi] at hf

/-- No control is set against an EL1 access exactly when none of EL2's and not `SCR_EL3.TCR2En` is (60_exceptions.md R132,
R136). -/
theorem clearAtEl1_iff :
    ClearAtEl1 s (vmTrapBit i s) (fineTrapTest i s) ↔ ¬ El2Control i s ∧ ¬ ScrDisabled s := by
  simp [ClearAtEl1, El2Control, ScrDisabled]

theorem clearAtEl2_iff : ClearAtEl2 s ↔ ¬ ScrDisabled s := by
  simp [ClearAtEl2, ScrDisabled]

variable (vm ft : Bool)

/-- At EL1 with no control set against it an access goes to NVMem under NVx = '111' and to the register otherwise (40 R103 rows 9,
10). -/
theorem verdictTcr2_el1_of_clear (hp : s.cfg.registerPresent = true) (hl : s.el = .el1) (hc : ClearAtEl1 s vm ft) :
    verdictTcr2 s vm ft = if s.inputs.nvx = 0b111#3 then .go .nvMem else .go .tcr2El1 := by
  obtain ⟨h2, h3⟩ := hc
  have hscr : (s.cfg.haveEL3 && !s.inputs.scrTCR2En) = false := by
    cases he : s.cfg.haveEL3 <;> simp [h3, he]
  rw [verdictTcr2, hl, hp, Bool.and_right_comm, hscr]
  cases he : s.inputs.el2Enabled with
  | false => simp
  | true =>
    obtain ⟨rfl, rfl, hx, ht⟩ := h2 he
    simp [hx, ht]

/-- At EL1 an access that goes anywhere has met no control set against it (40 R103 rows 3 to 8). -/
theorem clearAtEl1_of_go (hl : s.el = .el1) (p : Place) (h : verdictTcr2 s vm ft = .go p) : ClearAtEl1 s vm ft := by
  simp only [verdictTcr2, hl] at h
  refine ⟨fun he => ?_, fun h3 => ?_⟩
  · simp only [he, Bool.true_and] at h
    grind
  · simp only [h3, Bool.true_and] at h
    grind

/-- At EL2 outside the traps of `SCR_EL3.TCR2En` an access goes to TCR2_EL2 in host and to TCR2_EL1 otherwise (40 R103 rows 14,
15). -/
theorem verdictTcr2_el2_of_clear (hp : s.cfg.registerPresent = true) (hl : s.el = .el2) (hc : ClearAtEl2 s) :
    verdictTcr2 s vm ft = if s.inputs.el2IsInHost then .go .tcr2El2 else .go .tcr2El1 := by
  have hscr := (clearAtEl2_iff s).mp hc
  simp [verdictTcr2, hp, hl, el3Gate_of_not_scrDisabled s _ hscr]

/-- Where the claims say that an access by the name TCR2_EL1 or TCR2ALIAS_EL1 reaches the register, the shared chain sends it
there (40 R103 rows 10, 15, 16). -/
theorem verdictTcr2_of_reachesRegister (hp : s.cfg.registerPresent = true) (h : ReachesRegister s vm ft) :
    verdictTcr2 s vm ft = .go .tcr2El1 := by
  obtain ⟨hl, hc, hn⟩ | ⟨hl, hc, hh⟩ | hl := h
  · rw [verdictTcr2_el1_of_clear s vm ft hp hl hc, if_neg hn]
  · rw [verdictTcr2_el2_of_clear s vm ft hp hl hc, hh]
    rfl
  · simp [verdictTcr2, hp, hl]

/-- The shared chain sends an access to NVMem at EL1 alone, under NVx = '111', past every control (40 R103 row 9). -/
theorem verdictTcr2_eq_go_nvMem_iff (hp : s.cfg.registerPresent = true) :
    verdictTcr2 s vm ft = .go .nvMem ↔ s.el = .el1 ∧ s.inputs.nvx = 0b111#3 ∧ ClearAtEl1 s vm ft := by
  constructor
  · intro h
    have hl : s.el = .el1 := by
      cases hl : s.el with
      | el1 => rfl
      | el0 | el3 => simp [verdictTcr2, hp, hl] at h
      | el2 =>
        simp only [verdictTcr2, hp, hl, el3Gate] at h
        repeat' split at h
        all_goals cases h
    have hc := clearAtEl1_of_go s vm ft hl _ h
    rw [verdictTcr2_el1_of_clear s vm ft hp hl hc] at h
    exact ⟨hl, by simpa using h, hc⟩
  · rintro ⟨hl, hn, hc⟩
    rw [verdictTcr2_el1_of_clear s vm ft hp hl hc, if_pos hn]

end

section
variable (s : State) (hv : s.cfg.featVHE = true) (hp : s.cfg.registerPresent = true)
include hv hp

/-- The chain of the name TCR2_EL12 sends an access to NVMem at EL1 alone, under NVx = '101' (41 R113). -/
theorem verdictTcr2El12_eq_go_nvMem_iff :
    verdictTcr2El12 s = .go .nvMem ↔ s.el = .el1 ∧ s.inputs.nvx = 0b101#3 := by
  simp only [verdictTcr2El12, hv, hp]
  cases hl : s.el with
  | el0 => simp
  | el1 =>
    by_cases hn : s.inputs.nvx = 0b101#3
    · simp [hn]
    · cases s.inputs.nvx.getLsbD 0 <;> simp [hn]
  | el2 =>
    simp only [el3Gate]
    repeat' split
    all_goals simp_all
  | el3 =>
    cases s.inputs.el2IsInHost <;> simp

/-- Where the claims say that an access by the name TCR2_EL12 reaches the register, its chain sends it there (41 R113 rows 10,
11). -/
theorem verdictTcr2El12_of_reachesRegister (h : ReachesRegisterEl12 s) : verdictTcr2El12 s = .go .tcr2El1 := by
  obtain ⟨hh, ⟨hl, hc⟩ | hl⟩ := h
  · have hscr := (clearAtEl2_iff s).mp hc
    simp [verdictTcr2El12, hv, hp, hl, hh, el3Gate_of_not_scrDisabled s _ hscr]
  · simp [verdictTcr2El12, hv, hp, hl, hh]

end

section
variable (i : Instr) (s : State)

/-- An access that goes anywhere meets its register and accessor condition. -/
theorem implemented_of_go (p : Place) (h : verdictOf i s = .go p) : Implemented s.cfg i := by
  by_contra hn
  rw [verdictOf_of_not_implemented i s hn] at h
  cases h

/-- The chains direct an access to memory exactly where the claims say so (20_memory.md R60; 60_exceptions.md R141). -/
theorem verdictOf_eq_go_nvMem_iff : verdictOf i s = .go .nvMem ↔ DirectedToNvMem i s := by
  by_cases himp : Implemented s.cfg i
  · obtain ⟨hp, hvhe, -⟩ := (implemented_iff s.cfg i).mp himp
    by_cases ha : i.accessor = .tcr2El12
    · rw [verdictOf_eq_verdictTcr2El12 i s ha, verdictTcr2El12_eq_go_nvMem_iff s (hvhe ha) hp]
      simp [DirectedToNvMem, himp, ha]
    · rw [verdictOf_of_implemented i s himp ha, verdictTcr2_eq_go_nvMem_iff s _ _ hp, clearAtEl1_iff]
      simp [DirectedToNvMem, himp, ha]
  · exact ⟨fun h => absurd (implemented_of_go i s _ h) himp, fun h => absurd h.1 himp⟩

end

end Sys2Proof.Proofs
end

section
/-! SUPPORT. The obligations about where the six instructions complete, what they leave there, and every other outcome they
have (40 R100 to R104; 41 R111, R112; 42 R120 to R123; 20_memory.md R63, R65, R73). -/

namespace Sys2Proof.Proofs

open Sys2Proof.Machine Sys2Proof.Safety

/-! ### The six completions -/

section
variable (i : Instr) (s : State) (himp : Implemented s.cfg i)
include himp

/-- Where the claims say that an access by the name TCR2_EL1 or TCR2ALIAS_EL1 reaches the register, it goes there. -/
theorem verdictOf_of_reachesRegister (ha : i.accessor ≠ .tcr2El12)
    (h : ReachesRegister s (vmTrapBit i s) (fineTrapTest i s)) : verdictOf i s = .go .tcr2El1 := by
  rw [verdictOf_of_implemented i s himp ha]
  exact verdictTcr2_of_reachesRegister s _ _ ((implemented_iff s.cfg i).mp himp).1 h

/-- At EL2 in host an access by one of these names goes to TCR2_EL2 (40 R101, R102). -/
theorem verdictOf_el2_inHost (ha : i.accessor ≠ .tcr2El12) (hl : s.el = .el2) (hc : ClearAtEl2 s)
    (hh : s.inputs.el2IsInHost = true) : verdictOf i s = .go .tcr2El2 := by
  rw [verdictOf_of_implemented i s himp ha,
    verdictTcr2_el2_of_clear s _ _ ((implemented_iff s.cfg i).mp himp).1 hl hc, if_pos hh]

/-- Where the claims say that an access by the name TCR2_EL12 reaches the register, it goes there. -/
theorem verdictOf_of_reachesRegisterEl12 (ha : i.accessor = .tcr2El12) (h : ReachesRegisterEl12 s) :
    verdictOf i s = .go .tcr2El1 := by
  obtain ⟨hp, hv, -⟩ := (implemented_iff s.cfg i).mp himp
  rw [verdictOf_eq_verdictTcr2El12 i s ha]
  exact verdictTcr2El12_of_reachesRegister s (hv ha) hp h

/-- An MRS by the name TCR2_EL1 or TCR2ALIAS_EL1 completes from each of the three places (40 R101; 42 R121). -/
theorem mrs_completes (ha : i.accessor ≠ .tcr2El12) (hd : i.direction = .read) :
    (ReachesRegister s (vmTrapBit i s) (fineTrapTest i s) →
      ∃ s', exec i s = .next s' ∧ ReadsInto s s' i.reg s.tcr2El1) ∧
    (s.el = .el2 → ClearAtEl2 s → s.inputs.el2IsInHost = true →
      ∃ s', exec i s = .next s' ∧ ReadsInto s s' i.reg s.tcr2El2) ∧
    (DirectedToNvMem i s → NvMemReady s → ∃ s' v, exec i s = .next s' ∧ ReadsNvMem s s' i.reg v) :=
  ⟨fun h => mrs_reads_tcr2El1 i s hd (verdictOf_of_reachesRegister i s himp ha h),
    fun hl hc hh => mrs_reads_tcr2El2 i s hd (verdictOf_el2_inHost i s himp ha hl hc hh),
    fun h hr => mrs_reads_nvMem i s hd ((verdictOf_eq_go_nvMem_iff i s).mpr h) hr⟩

/-- An MSR by one of these names completes in each of the three places, with the merge of its name in the register (40 R102; 42
R122). -/
theorem msr_completes (ha : i.accessor ≠ .tcr2El12) (hd : i.direction = .write) :
    (ReachesRegister s (vmTrapBit i s) (fineTrapTest i s) →
      ∃ s', exec i s = .next s' ∧ WritesTcr2El1 s s' (mergedValue i s)) ∧
    (s.el = .el2 → ClearAtEl2 s → s.inputs.el2IsInHost = true →
      ∃ s', exec i s = .next s' ∧ WritesTcr2El2 s s' (s.readX i.reg)) ∧
    (DirectedToNvMem i s → NvMemReady s → NvMemClearOfText s →
      ∃ s', exec i s = .next s' ∧ StoresNvMem s s' (s.readX i.reg)) :=
  ⟨fun h => msr_writes_tcr2El1 i s hd (verdictOf_of_reachesRegister i s himp ha h),
    fun hl hc hh => msr_writes_tcr2El2 i s hd (verdictOf_el2_inHost i s himp ha hl hc hh),
    fun h hr ht => msr_stores_nvMem i s hd ((verdictOf_eq_go_nvMem_iff i s).mpr h) hr ht⟩

end

/-- Settles O18. -/
theorem mrsTcr2El1Completes : Obligations.MrsTcr2El1Completes :=
  fun t s himp => mrs_completes (.mrsTcr2El1 t) s himp nofun rfl

/-- Settles O22: the alias differs from TCR2_EL1 in its fine-grained test alone. -/
theorem mrsTcr2AliasEl1Completes : Obligations.MrsTcr2AliasEl1Completes :=
  fun t s himp => mrs_completes (.mrsTcr2AliasEl1 t) s himp nofun rfl

/-- Settles O20. -/
theorem mrsTcr2El12Completes : Obligations.MrsTcr2El12Completes := by
  intro t s himp
  exact ⟨fun h => mrs_reads_tcr2El1 _ s rfl (verdictOf_of_reachesRegisterEl12 _ s himp rfl h),
    fun h hr => mrs_reads_nvMem _ s rfl ((verdictOf_eq_go_nvMem_iff _ s).mpr h) hr⟩

/-- Settles O19: the mask of this name is ROMask(). -/
theorem msrTcr2El1Completes : Obligations.MsrTcr2El1Completes :=
  fun t s himp => msr_completes (.msrTcr2El1 t) s himp nofun rfl

/-- Under an empty read-only mask the merge of 10_state.md R45 forgets the old value. -/
theorem mergedValue_of_readOnlyFor_zero (i : Instr) (s : State) (h : readOnlyFor i s = 0) :
    mergedValue i s = s.readX i.reg &&& storageMask s.cfg := by
  rw [mergedValue, h]
  exact mergeTcr2_unmasked s.cfg s.tcr2El1 (s.readX i.reg)

/-- The merge of the alias write, by AliasWriteMasked (10_state.md R45). -/
theorem mergedValue_alias (t : Nat) (s : State) :
    mergedValue (.msrTcr2AliasEl1 t) s =
      if s.cfg.aliasWriteMasked then
        ((s.tcr2El1 &&& roMask s) ||| (s.readX t &&& ~~~roMask s)) &&& storageMask s.cfg
      else s.readX t &&& storageMask s.cfg := by
  cases h : s.cfg.aliasWriteMasked with
  | true => simp [mergedValue, readOnlyFor, Instr.accessor, Instr.reg, h]
  | false => exact mergedValue_of_readOnlyFor_zero _ s (by simp [readOnlyFor, Instr.accessor, h])

/-- Settles O23: the mask of the alias write is ROMask() or 0 as AliasWriteMasked says. -/
theorem msrTcr2AliasEl1Completes : Obligations.MsrTcr2AliasEl1Completes := by
  intro t s himp
  rw [← mergedValue_alias]
  exact msr_completes (.msrTcr2AliasEl1 t) s himp nofun rfl

/-- Settles O21: the mask of this name is 0. -/
theorem msrTcr2El12Completes : Obligations.MsrTcr2El12Completes := by
  intro t s himp
  have hm : mergedValue (.msrTcr2El12 t) s = s.readX t &&& storageMask s.cfg :=
    mergedValue_of_readOnlyFor_zero _ s rfl
  rw [← hm]
  exact ⟨fun h => msr_writes_tcr2El1 _ s rfl (verdictOf_of_reachesRegisterEl12 _ s himp rfl h),
    fun h hr ht => msr_stores_nvMem _ s rfl ((verdictOf_eq_go_nvMem_iff _ s).mpr h) hr ht⟩

/-! ### Every outcome -/

/-- The outcome of an access that goes to memory: it completes where it is ready, and stops by name elsewhere. -/
theorem exec_nvMem_cases (i : Instr) (s : State) (h : DirectedToNvMem i s) :
    (NvMemReady s ∧ i.direction = .read ∧ ∃ s' v, exec i s = .next s' ∧ ReadsNvMem s s' i.reg v) ∨
      (NvMemReady s ∧ NvMemClearOfText s ∧ i.direction = .write ∧
        ∃ s', exec i s = .next s' ∧ StoresNvMem s s' (s.readX i.reg)) ∨
      (¬ (NvMemReady s ∧ (i.direction = .write → NvMemClearOfText s)) ∧
        (exec i s = .refused (.nvMemBaseMisaligned s.inputs.nvMemBase) ∨
          exec i s = .fault (.nvMemNotAdmitted s.pc (encode i)) ∨
          exec i s = .refused (.nvMemWriteOntoText s.nvMemAddr))) := by
  have hv := (verdictOf_eq_go_nvMem_iff i s).mpr h
  by_cases hok : NvMemReady s ∧ (i.direction = .write → NvMemClearOfText s)
  · obtain ⟨hr, ht⟩ := hok
    cases hd : i.direction with
    | read => exact .inl ⟨hr, rfl, mrs_reads_nvMem i s hd hv hr⟩
    | write => exact .inr (.inl ⟨hr, ht hd, rfl, msr_stores_nvMem i s hd hv hr (ht hd)⟩)
  · exact .inr (.inr ⟨hok, exec_nvMem_stops i s hv hok⟩)

/-- Settles O24, by what the chain decides. -/
theorem everyOutcomeIsOneOfTheNine : Obligations.EveryOutcomeIsOneOfTheNine := by
  intro i s
  cases hv : verdictOf i s with
  | undefined => exact .inr (.inr (.inl (exec_of_undefined i s hv)))
  | trapEl2 => exact .inr (.inr (.inr (.inl (exec_of_trapEl2 i s hv))))
  | trapEl3 => exact .inr (.inr (.inr (.inr (.inl (exec_of_trapEl3 i s hv)))))
  | go p =>
    cases p with
    | tcr2El1 =>
      cases hd : i.direction with
      | read =>
        obtain ⟨s', he, hr⟩ := mrs_reads_tcr2El1 i s hd hv
        exact .inl ⟨s', he, rfl, .inl hr⟩
      | write =>
        obtain ⟨s', he, hw⟩ := msr_writes_tcr2El1 i s hd hv
        exact .inr (.inl ⟨s', he, rfl, .inl hw⟩)
    | tcr2El2 =>
      cases hd : i.direction with
      | read =>
        obtain ⟨s', he, hr⟩ := mrs_reads_tcr2El2 i s hd hv
        exact .inl ⟨s', he, rfl, .inr (.inl hr)⟩
      | write =>
        obtain ⟨s', he, hw⟩ := msr_writes_tcr2El2 i s hd hv
        exact .inr (.inl ⟨s', he, rfl, .inr (.inl hw)⟩)
    | nvMem =>
      have hdir := (verdictOf_eq_go_nvMem_iff i s).mp hv
      obtain ⟨hr, hd, s', v, he, hx⟩ | ⟨hr, ht, hd, s', he, hm⟩ | hstop := exec_nvMem_cases i s hdir
      · exact .inl ⟨s', he, hd, .inr (.inr ⟨hdir, hr, v, hx⟩)⟩
      · exact .inr (.inl ⟨s', he, hd, .inr (.inr ⟨hdir, hr, ht, hm⟩)⟩)
      · exact .inr (.inr (.inr (.inr (.inr ⟨hdir, hstop⟩))))

/-- Settles O15: of the five updates one alone stores a value in TCR2_EL1, a merged one. -/
theorem meaningsKeepTheRegisterInStorage : Obligations.MeaningsKeepTheRegisterInStorage := by
  intro i s s' hs he
  obtain ⟨w, rfl⟩ | ⟨v, ro, rfl⟩ | rfl | rfl | rfl := exec_next i s s' he
  · exact hs
  · exact withinStorage_mergeTcr2 s.cfg s.tcr2El1 v ro
  · exact hs
  · exact hs
  · exact hs

/-- While the register is ignored a control is set against every EL1 access by the names TCR2_EL1 and TCR2ALIAS_EL1
(10_state.md R42; 40 R104). -/
theorem not_clearAtEl1_of_tcr2Ignored (s : State) (vm ft : Bool) (h : tcr2Ignored s.cfg s.inputs = true) :
    ¬ ClearAtEl1 s vm ft := by
  rintro ⟨h2, h3⟩
  obtain ⟨hen, hoff⟩ | ⟨hel3, hscr⟩ := (tcr2Ignored_iff s.cfg s.inputs).mp h
  · obtain ⟨-, -, hx⟩ := h2 hen
    exact hoff hx
  · exact absurd (h3 hel3) (by simp [hscr])

/-- Settles O35: an access that goes anywhere at EL1 has met no control, and one is set while the register is ignored. -/
theorem ignoredRegisterIsOutOfReachAtEl1 : Obligations.IgnoredRegisterIsOutOfReachAtEl1 := by
  intro i s hl ha hign
  refine exec_of_not_go i s fun p hp => ?_
  rw [verdictOf_of_implemented i s (implemented_of_go i s p hp) ha] at hp
  exact not_clearAtEl1_of_tcr2Ignored s _ _ hign (clearAtEl1_of_go s _ _ hl p hp)

end Sys2Proof.Proofs
end

section
/-! SUPPORT. The obligations about the masks: ROMask() position by position, a masked write bit by bit, and no masking away from
EL1 (10_state.md R39, R44, R45; 40 R102). -/

namespace Sys2Proof.Proofs

open Sys2Proof.Machine Sys2Proof.Safety

/-- A field exists while the register holds `w` (10_state.md R29, R30, R44). -/
theorem existsIn_iff (c : Config) (w : Word) (f : Field) :
    f.existsIn c w = true ↔ f.feature c = true ∧ ((f = .disCH1 ∨ f = .disCH0) → w.getLsbD 5 = true) := by
  cases f <;> simp [Field.existsIn, Field.pos]

/-- ROMask() at a field's position, in the terms of 10_state.md R44. -/
theorem roMask_getLsbD_pos_iff (s : State) (f : Field) :
    (roMask s).getLsbD f.pos = true ↔
      s.cfg.featSRMASK = true ∧ s.el = .el1 ∧ s.inputs.srMaskingEnabled = true ∧ s.inputs.tcr2Mask.get f = true ∧
        f.feature s.cfg = true ∧ ((f = .disCH1 ∨ f = .disCH0) → s.tcr2El1.getLsbD 5 = true) := by
  rw [roMask_getLsbD_pos, ← existsIn_iff]
  simp only [Bool.and_eq_true, beq_iff_eq]
  tauto

/-- ROMask() at a position of no field (10_state.md R44). -/
theorem roMask_getLsbD_reserved (s : State) (k : Nat) (h : ∀ f : Field, f.pos ≠ k) : (roMask s).getLsbD k = false := by
  unfold roMask
  split
  · by_cases hk : k < 64
    · rw [maskOf_getLsbD _ k hk, List.any_eq_false]
      intro f _ hf
      simp only [Bool.and_eq_true, beq_iff_eq] at hf
      exact h f hf.2
    · exact BitVec.getLsbD_of_ge _ _ (by omega)
  · simp

/-- Settles O38. -/
theorem readOnlyPositions : Obligations.ReadOnlyPositions := fun s =>
  ⟨roMask_getLsbD_pos_iff s, roMask_getLsbD_reserved s⟩

/-! ### A masked write -/

/-- A named field is one whose feature is implemented, but for the PTTWI fixed at 0 (10_state.md R45). -/
theorem named_iff (c : Config) (f : Field) :
    f.named c = true ↔ c.registerPresent = true ∧ f.feature c = true ∧ ¬ (f = .pttwi ∧ c.pttwiRO0 = true) := by
  cases f <;> simp [Field.named, and_assoc]

/-- An instruction that answers a next state went somewhere. -/
theorem go_of_exec_next (i : Instr) (s s' : State) (h : exec i s = .next s') : ∃ p, verdictOf i s = .go p := by
  by_contra hn
  obtain he | he | he := exec_of_not_go i s fun p hp => hn ⟨p, hp⟩
  all_goals
    rw [he] at h
    cases h

/-- Where `MSR TCR2_EL1, <Xt>` completes at EL1 outside NVx = '111', it stores the merge under ROMask() (40 R102). -/
theorem msrTcr2El1_el1_stores (t : Nat) (s s' : State) (hl : s.el = .el1) (hn : s.inputs.nvx ≠ 0b111#3)
    (h : exec (.msrTcr2El1 t) s = .next s') :
    s.cfg.registerPresent = true ∧ s'.tcr2El1 = mergeTcr2 s.cfg s.tcr2El1 (s.readX t) (roMask s) := by
  obtain ⟨p, hp⟩ := go_of_exec_next _ s s' h
  have himp := implemented_of_go _ s p hp
  have hpres := ((implemented_iff _ _).mp himp).1
  rw [verdictOf_of_implemented _ s himp nofun] at hp
  have hclear := clearAtEl1_of_go s _ _ hl p hp
  have hreach := verdictOf_of_reachesRegister (.msrTcr2El1 t) s himp nofun (.inl ⟨hl, hclear, hn⟩)
  rw [exec_of_write _ s rfl, hreach] at h
  cases h
  exact ⟨hpres, rfl⟩

/-- Outside the named fields ROMask() holds at most the PTTWI fixed at 0 (10_state.md R44, R45). -/
theorem roMask_getLsbD_unnamed (s : State) (hp : s.cfg.registerPresent = true) (k : Nat)
    (h : ∀ f : Field, f.named s.cfg = true → f.pos ≠ k)
    (hz : ¬ (s.cfg.featTHE = true ∧ s.cfg.pttwiRO0 = true ∧ k = 10)) : (roMask s).getLsbD k = false := by
  by_cases hf : ∃ f : Field, f.pos = k
  · obtain ⟨f, rfl⟩ := hf
    rw [Bool.eq_false_iff]
    intro hro
    obtain ⟨-, -, -, -, hfeat, -⟩ := (roMask_getLsbD_pos_iff s f).mp hro
    refine h f ((named_iff s.cfg f).mpr ⟨hp, hfeat, ?_⟩) rfl
    rintro ⟨rfl, hro0⟩
    exact hz ⟨hfeat, hro0, rfl⟩
  · exact roMask_getLsbD_reserved s k (not_exists.mp hf)

/-- StorageMask outside the named fields of a register that is present: the bits the implementation stores, without bit 10 where
PTTWI is fixed at 0 (10_state.md R39, R45). -/
theorem storageMask_getLsbD_unnamed (c : Config) (hp : c.registerPresent = true) (k : Nat) (hk : k < 64)
    (h : ∀ f : Field, f.named c = true → f.pos ≠ k) :
    (storageMask c).getLsbD k =
      if c.featTHE = true ∧ c.pttwiRO0 = true ∧ k = 10 then false else c.res0StorageMask.getLsbD k := by
  rw [storageMask_getLsbD c k hk, namedMask_getLsbD_unnamed c k hk h, fixedZeroMask_getLsbD, hp]
  split
  · next hz => simp [hz]
  · next hz =>
    have hf : (c.featTHE && c.pttwiRO0 && decide (k = 10)) = false := by
      rw [Bool.eq_false_iff]
      simpa [and_assoc] using hz
    simp [hf]

/-- Settles O40: a named field is storage and masked as ROMask() says; another position is never masked where it is storage. -/
theorem maskedWriteBitByBit : Obligations.MaskedWriteBitByBit := by
  intro t s s' hl hn h
  obtain ⟨hp, hs⟩ := msrTcr2El1_el1_stores t s s' hl hn h
  rw [hs]
  constructor
  · intro f hf
    have hfeat := ((named_iff s.cfg f).mp hf).2.1
    rw [mergeTcr2_getLsbD _ _ _ _ _ f.pos_lt, storageMask_getLsbD_named _ f hf, Bool.and_true]
    simp only [roMask_getLsbD_pos_iff, hl, hfeat, true_and]
  · intro k hk hk'
    rw [mergeTcr2_getLsbD _ _ _ _ k hk, storageMask_getLsbD_unnamed s.cfg hp k hk hk']
    by_cases hz : s.cfg.featTHE = true ∧ s.cfg.pttwiRO0 = true ∧ k = 10
    · rw [if_pos hz, if_pos hz, Bool.and_false]
    · rw [if_neg hz, if_neg hz, roMask_getLsbD_unnamed s hp k hk' hz, Bool.and_comm]
      rfl

/-! ### No masking away from EL1 -/

/-- The inputs with another TCR2MASK_EL1 and another masking enable. -/
def withMask (n : Inputs) (m : FieldBits) (b : Bool) : Inputs :=
  { n with tcr2Mask := m, srMaskingEnabled := b }

/-- No chain reads either of the two (40 R101, R102; 41 R111, R112; 42 R121, R122). -/
theorem verdictOf_withMask (i : Instr) (s : State) (m : FieldBits) (b : Bool) :
    verdictOf i { s with inputs := withMask s.inputs m b } = verdictOf i s := by
  cases i <;> rfl

/-- Away from EL1 no bit is read-only, whatever the name (10_state.md R44, R45). -/
theorem readOnlyFor_of_not_el1 (i : Instr) (s : State) (h : s.el ≠ .el1) : readOnlyFor i s = 0 := by
  cases i <;> simp [readOnlyFor, Instr.accessor, roMask_of_not_el1 s h]

/-- Settles O41: away from EL1 the read-only mask is 0 with either inputs, and nothing else reads the two. -/
theorem maskHasNoEffectAwayFromEl1 : Obligations.MaskHasNoEffectAwayFromEl1 := by
  intro i s m b hl
  have hro : readOnlyFor i { s with inputs := withMask s.inputs m b } = readOnlyFor i s := by
    rw [readOnlyFor_of_not_el1 i s hl, readOnlyFor_of_not_el1 i { s with inputs := withMask s.inputs m b } hl]
  exact exec_withInputs i s (withMask s.inputs m b) (verdictOf_withMask i s m b) hro rfl rfl

end Sys2Proof.Proofs
end

section
/-! SUPPORT. A move with its result, and what performing outstanding accesses keeps, each said once (20_memory.md R68, R69). -/

namespace Sys2Proof.Machine

/-- What holds of each of the eight moves and its result holds of a move and the state it answers. -/
theorem applyMove_next_indexed (P : Move → State → Prop) (m : Move) (s s' : State) (h : applyMove m s = .next s')
    (hexec : ∀ m i, exec i (settle i s) = .next s' → P m s') (hlate : ∀ m i, P m (issueLate i s))
    (hperform : ∀ n, P (.perform n) (performOldest n s)) (hsync : P .synchronize (synchronize s))
    (hinputs : ∀ n, P (.setInputs n) (setInputs n s)) (hstore : ∀ a v, P (.agentStore a v) (agentStore a v s))
    (hdrop : P .dropCached (dropCached s)) (hreset : ∀ d, P (.warmReset d) (warmReset d s)) : P m s' := by
  cases m with
  | execute =>
    obtain ⟨i, -, he⟩ := executeNow_next s s' h
    exact hexec _ i he
  | executeLate =>
    obtain ⟨i, -, ⟨-, rfl⟩ | he⟩ := executeLate_next s s' h
    · exact hlate _ i
    · exact hexec _ i he
  | perform n =>
    cases h
    exact hperform n
  | synchronize =>
    cases h
    exact hsync
  | setInputs n =>
    cases h
    exact hinputs n
  | agentStore a v =>
    cases h
    exact hstore a v
  | dropCached =>
    cases h
    exact hdrop
  | warmReset d =>
    cases h
    exact hreset d

/-! ### What performing outstanding accesses keeps -/

section
variable (P : State → Prop) (hx : ∀ s t v, P s → P (State.writeX s t v)) (hw : ∀ s v, P s → P (State.putTcr2El1 s v))
  (ho : ∀ (s : State) l, P s → P { s with outstanding := l })
include hx hw

/-- What a write of a general-purpose register and one of TCR2_EL1 keep, an effect keeps. -/
theorem applyEffect_keeps (e : AccessEffect) (s : State) (h : P s) : P (applyEffect s e) := by
  obtain ⟨t, -, ht⟩ | ⟨v, -, hv⟩ := applyEffect_cases s e
  · exact ht ▸ hx s t _ h
  · exact hv ▸ hw s v h

include ho

/-- What the effects keep, and the list of outstanding accesses does not decide, performing accesses keeps. -/
theorem performNames_keeps (p : Accessor → Bool) (s : State) (h : P s) : P (performNames p s) :=
  applyEffects_induct P _ _ (ho s _ h) fun d _ t ht => applyEffect_keeps P hx hw d.effect t ht

theorem performOldest_keeps (n : Accessor) (s : State) (h : P s) : P (performOldest n s) := by
  obtain ⟨d, -, hd⟩ | hn := performOldest_cases n s
  · exact hd ▸ applyEffect_keeps P hx hw d.effect _ (ho s _ h)
  · rwa [hn]

theorem settleBeforeNext_keeps (s : State) (h : P s) : P (settleBeforeNext s) := by
  obtain ⟨-, hs⟩ | hs := settleBeforeNext_cases s
  · rwa [hs]
  · rw [hs]
    exact performNames_keeps P hx hw ho _ s h

end

@[simp] theorem settleBeforeNext_el (s : State) : (settleBeforeNext s).el = s.el :=
  settleBeforeNext_proj State.el performNames_el s

@[simp] theorem settleBeforeNext_inputs (s : State) : (settleBeforeNext s).inputs = s.inputs :=
  settleBeforeNext_proj State.inputs performNames_inputs s

/-- The step whose move answers a next state is that move and the settling after it, and the move alone with nothing outstanding
(20_memory.md R69). -/
theorem step_of_move (s t : State) (m : Move) (rest : List Move) (h : s.schedule = m :: rest)
    (ht : applyMove m { s with schedule := rest } = .next t) (ho : t.outstanding = s.outstanding) :
    step s = .next (settleBeforeNext t) ∧ (s.outstanding = [] → step s = .next t) := by
  have hstep : step s = .next (settleBeforeNext t) := by rw [step_of_schedule s m rest h, ht, settled]
  exact ⟨hstep, fun he => by rw [hstep, settleBeforeNext_nil t (ho.trans he)]⟩

end Sys2Proof.Machine
end

section
/-! SUPPORT. What a step leaves alone and what it remembers: the level and the inputs belong to their own moves (10_state.md R49,
R51; 60_exceptions.md R135), and no move but the removal of cached copies forgets an effective value (10_state.md R46). -/

namespace Sys2Proof.Proofs

open Sys2Proof.Machine Sys2Proof.Safety

/-! ### The level and the inputs -/

/-- The level and the inputs are as before. -/
def KeepsLevelAndInputs (s s' : State) : Prop :=
  s'.el = s.el ∧ s'.inputs = s.inputs

theorem exec_keepsLevelAndInputs (i : Instr) (s s' : State) (h : exec i s = .next s') : KeepsLevelAndInputs s s' := by
  obtain ⟨w, rfl⟩ | ⟨v, ro, rfl⟩ | rfl | rfl | rfl := exec_next i s s' h <;> exact ⟨rfl, rfl⟩

/-- What follows the performing of outstanding accesses may be compared with the state before it. -/
theorem KeepsLevelAndInputs.of_performNames {p : Accessor → Bool} {s s' : State}
    (h : KeepsLevelAndInputs (performNames p s) s') : KeepsLevelAndInputs s s' := by
  simpa only [KeepsLevelAndInputs, performNames_el, performNames_inputs] using h

/-- Of the eight moves two alone change the level or the inputs (10_state.md R49, R51; 60_exceptions.md R135). -/
theorem applyMove_keepsLevelAndInputs (m : Move) (s s' : State) (h : applyMove m s = .next s') :
    KeepsLevelAndInputs s s' ∨ (∃ n, m = .setInputs n ∧ s' = setInputs n s) ∨
      ∃ d, m = .warmReset d ∧ s' = warmReset d s := by
  have hlate (i : Instr) : KeepsLevelAndInputs (settleRegisters i s) (issueLate i s) := ⟨rfl, rfl⟩
  have hsync : KeepsLevelAndInputs (performAll s) (synchronize s) := ⟨rfl, rfl⟩
  have hperform (n : Accessor) : KeepsLevelAndInputs s (performOldest n s) :=
    performOldest_keeps (KeepsLevelAndInputs s) (fun _ _ _ h => h) (fun _ _ h => h) (fun _ _ h => h) n s ⟨rfl, rfl⟩
  exact applyMove_next_indexed
    (fun m t => KeepsLevelAndInputs s t ∨ (∃ n, m = .setInputs n ∧ t = setInputs n s) ∨
      ∃ d, m = .warmReset d ∧ t = warmReset d s) m s s' h
    (fun _ i he => .inl (exec_keepsLevelAndInputs i _ s' he).of_performNames)
    (fun _ i => .inl (hlate i).of_performNames) (fun n => .inl (hperform n)) (.inl hsync.of_performNames)
    (fun n => .inr (.inl ⟨n, rfl, rfl⟩)) (fun _ _ => .inl ⟨rfl, rfl⟩) (.inl ⟨rfl, rfl⟩)
    (fun d => .inr (.inr ⟨d, rfl, rfl⟩))

/-- The head of the schedule moves, unless it is empty and the PE executes (log 6). -/
theorem step_keepsLevelAndInputs (s s' : State) (h : step s = .next s') :
    KeepsLevelAndInputs s s' ∨
      (∃ n rest, s.schedule = .setInputs n :: rest ∧ s'.el = s.el ∧ s'.inputs = n) ∨
      ∃ d rest, s.schedule = .warmReset d :: rest ∧ s'.el = s.cfg.resetEL ∧ s'.inputs = s.inputs := by
  obtain ⟨m, rest, t, hm, ht, rfl⟩ := step_next s s' h
  simp only [KeepsLevelAndInputs, settleBeforeNext_el, settleBeforeNext_inputs]
  obtain hk | ⟨n, rfl, rfl⟩ | ⟨d, rfl, rfl⟩ := applyMove_keepsLevelAndInputs m _ t ht
  · exact .inl hk
  · have hs := hm.resolve_right nofun
    exact .inr (.inl ⟨n, rest, hs, rfl, rfl⟩)
  · have hs := hm.resolve_right nofun
    exact .inr (.inr ⟨d, rest, hs, rfl, rfl⟩)

/-- Settles O16. -/
theorem onlyResetChangesTheLevel : Obligations.OnlyResetChangesTheLevel := by
  intro s s' h
  obtain ⟨hl, -⟩ | ⟨_, _, -, hl, -⟩ | ⟨d, rest, hs, hl, -⟩ := step_keepsLevelAndInputs s s' h
  · exact .inl hl
  · exact .inl hl
  · exact .inr ⟨d, rest, hs, hl⟩

/-- Settles O17. -/
theorem onlyTheirOwnersChangeTheInputs : Obligations.OnlyTheirOwnersChangeTheInputs := by
  intro s s' h
  obtain ⟨-, hn⟩ | ⟨n, rest, hs, -, hn⟩ | ⟨_, _, -, -, hn⟩ := step_keepsLevelAndInputs s s' h
  · exact .inl hn
  · exact .inr ⟨n, rest, hs, hn⟩
  · exact .inl hn

/-! ### What a translation may use -/

/-- The values a translation may use, by where they come from: the stored value and those of the window under the present
inputs, the effective values of the window, and what a TLB may hold (10_state.md R46; 70 R167, R168). -/
theorem mayUse_iff (s : State) (f : Field) (b : Bool) :
    mayUse s f b = true ↔
      (∃ w ∈ s.tcr2El1 :: s.unsynced, (effective s.cfg s.inputs w).get f = b) ∨
        (∃ e ∈ s.unsyncedEff, e.get f = b) ∨ (f.tlbCacheable = true ∧ ∃ e ∈ s.cachedEff, e.get f = b) := by
  simp only [mayUse, Bool.or_eq_true, Bool.and_eq_true, List.any_eq_true, beq_iff_eq, or_assoc]

theorem mayUse_eff (s : State) (f : Field) : mayUse s f (s.eff.get f) = true :=
  (mayUse_iff s f _).mpr (.inl ⟨s.tcr2El1, List.mem_cons_self, rfl⟩)

theorem mayUse_of_mem_unsyncedEff (s : State) (f : Field) (e : FieldBits) (h : e ∈ s.unsyncedEff) :
    mayUse s f (e.get f) = true :=
  (mayUse_iff s f _).mpr (.inr (.inl ⟨e, h, rfl⟩))

theorem mayUse_of_mem_cachedEff (s : State) (f : Field) (e : FieldBits) (hf : f.tlbCacheable = true)
    (h : e ∈ s.cachedEff) : mayUse s f (e.get f) = true :=
  (mayUse_iff s f _).mpr (.inr (.inr ⟨hf, e, h, rfl⟩))

/-- POE and E0POE alone may not be cached in a TLB (10_state.md R23, R35, R36, R46). -/
theorem tlbCacheable_iff (f : Field) : f.tlbCacheable = true ↔ f ≠ .poe ∧ f ≠ .e0poe := by
  cases f <;> decide

/-- With the window of 70 R167 closed and nothing cached of the field, the current effective value alone may be used. -/
theorem mayUse_iff_eff (s : State) (f : Field) (b : Bool) (hw : s.unsynced = []) (he : s.unsyncedEff = [])
    (hc : f.tlbCacheable = false ∨ s.cachedEff = []) : mayUse s f b = true ↔ b = s.eff.get f := by
  rw [mayUse_iff, hw, he]
  have hcached : ¬ (f.tlbCacheable = true ∧ ∃ e ∈ s.cachedEff, e.get f = b) := by
    rintro ⟨hf, e, hm, -⟩
    obtain h | h := hc
    · simp [h] at hf
    · simp [h] at hm
  simp [hcached, State.eff, eq_comm (a := b)]

/-! ### Cached effective values -/

/-- Every effective value in force or remembered in `s` is in force or remembered in `s'`. -/
def RemembersEff (s s' : State) : Prop :=
  ∀ e, e = s.eff ∨ e ∈ s.cachedEff → e = s'.eff ∨ e ∈ s'.cachedEff

namespace RemembersEff

variable {s s' s'' : State}

theorem refl (s : State) : RemembersEff s s :=
  fun _ h => h

theorem trans (h : RemembersEff s s') (h' : RemembersEff s' s'') : RemembersEff s s'' :=
  fun e he => h' e (h e he)

/-- A state with the same register, inputs and parameters that forgets nothing. -/
theorem of_eff_eq (heff : s'.eff = s.eff) (hc : s'.cachedEff = s.cachedEff) : RemembersEff s s' := by
  intro e he
  rwa [heff, hc]

/-- A state that remembers what was in force. -/
theorem of_cached (heff : s.eff ∈ s'.cachedEff) (hc : s.cachedEff ⊆ s'.cachedEff) : RemembersEff s s' := by
  rintro e (rfl | he)
  · exact .inr heff
  · exact .inr (hc he)

theorem writeX (s : State) (t : Nat) (v : Word) : RemembersEff s (s.writeX t v) :=
  of_eff_eq rfl rfl

/-- A write of TCR2_EL1 remembers the effective values it replaces (10_state.md R46). -/
theorem putTcr2El1 (s : State) (v : Word) : RemembersEff s (s.putTcr2El1 v) :=
  of_cached ((mem_remember s.eff s.eff s.cachedEff).mpr (.inl rfl))
    fun e he => (mem_remember s.eff e s.cachedEff).mpr (.inr he)

/-- What remembers the values the register may be said to have had remembers the one in force (20_memory.md R68). -/
theorem of_effMayHold (hc : s'.cachedEff = rememberAll s.effMayHold s.cachedEff) : RemembersEff s s' := by
  refine of_cached ?_ fun e he => ?_
  · rw [hc, mem_rememberAll]
    exact .inl (eff_mem_effMayHold s)
  · rw [hc, mem_rememberAll]
    exact .inr he

theorem performNames (p : Accessor → Bool) (s : State) : RemembersEff s (performNames p s) :=
  performNames_keeps (RemembersEff s) (fun t u v h => h.trans (writeX t u v)) (fun t v h => h.trans (putTcr2El1 t v))
    (fun _ _ h => h) p s (refl s)

theorem performOldest (n : Accessor) (s : State) : RemembersEff s (performOldest n s) :=
  performOldest_keeps (RemembersEff s) (fun t u v h => h.trans (writeX t u v)) (fun t v h => h.trans (putTcr2El1 t v))
    (fun _ _ h => h) n s (refl s)

theorem settleBeforeNext (s : State) : RemembersEff s (settleBeforeNext s) :=
  settleBeforeNext_keeps (RemembersEff s) (fun t u v h => h.trans (writeX t u v))
    (fun t v h => h.trans (putTcr2El1 t v)) (fun _ _ h => h) s (refl s)

theorem exec (i : Instr) (he : exec i s = .next s') : RemembersEff s s' := by
  obtain ⟨w, rfl⟩ | ⟨v, ro, rfl⟩ | rfl | rfl | rfl := exec_next i s s' he
  · exact of_eff_eq rfl rfl
  · exact (putTcr2El1 s _).trans (of_eff_eq rfl rfl)
  · exact of_eff_eq rfl rfl
  · exact of_eff_eq rfl rfl
  · exact of_eff_eq rfl rfl

/-- Every move but the removal of cached copies forgets no effective value (10_state.md R46). -/
theorem applyMove (m : Move) (h : applyMove m s = .next s') (hm : m ≠ .dropCached) : RemembersEff s s' :=
  applyMove_next_indexed (fun m t => m ≠ .dropCached → RemembersEff s t) m s s' h
    (fun _ i he _ => (performNames _ s).trans (exec i he))
    (fun _ i _ => (performNames _ s).trans (of_eff_eq (s := settleRegisters i s) rfl rfl))
    (fun n _ => performOldest n s)
    (fun _ => (performNames _ s).trans (of_eff_eq (s := performAll s) rfl rfl))
    (fun _ _ => of_effMayHold rfl) (fun _ _ _ => of_eff_eq rfl rfl) (fun hd => absurd rfl hd)
    (fun _ _ => of_effMayHold rfl) hm

end RemembersEff

/-- Every step but one that removes the cached copies forgets no effective value. -/
theorem step_remembersEff (s s' : State) (h : step s = .next s') (hd : ∀ rest, s.schedule ≠ .dropCached :: rest) :
    RemembersEff s s' := by
  obtain ⟨m, rest, t, hm, ht, rfl⟩ := step_next s s' h
  have hne : m ≠ .dropCached := by
    rintro rfl
    exact hd rest (hm.resolve_right nofun)
  have hmove : RemembersEff s t := RemembersEff.applyMove (s := { s with schedule := rest }) m ht hne
  exact hmove.trans (RemembersEff.settleBeforeNext t)

/-- Settles O59. -/
theorem cachedValuesStayUntilDropped : Obligations.CachedValuesStayUntilDropped := by
  refine ⟨fun s s' f b hp he hstep hdrop hb => ?_, fun s rest hs => ?_⟩
  · have hf := (tlbCacheable_iff f).mpr ⟨hp, he⟩
    have hkeep := step_remembersEff s s' hstep hdrop
    obtain ⟨e, hmem, rfl⟩ : ∃ e, (e = s.eff ∨ e ∈ s.cachedEff) ∧ e.get f = b := by
      obtain rfl | ⟨e, hm, hb⟩ := hb
      · exact ⟨s.eff, .inl rfl, rfl⟩
      · exact ⟨e, .inr hm, hb⟩
    obtain rfl | hm := hkeep e hmem
    · exact mayUse_eff s' f
    · exact mayUse_of_mem_cachedEff s' f e hf hm
  · obtain ⟨hstep, halone⟩ := step_of_move s (dropCached { s with schedule := rest }) .dropCached rest hs rfl rfl
    exact ⟨_, hstep, halone, rfl, fun hw hwe f b => mayUse_iff_eff _ f b hw hwe (.inr rfl)⟩

end Sys2Proof.Proofs
end

section
/-! SUPPORT. The obligations about effective values and translation: reset (70 R162, R163), the fifteen effective values
(10_state.md R43), what the fields switch (20_memory.md R72), and which values a translation may use around a change of inputs,
an MSR, Synchronize and Warm reset (10_state.md R46; 70 R167, R168). -/

namespace Sys2Proof.Proofs

open Sys2Proof.Machine Sys2Proof.Safety

/-- Settles O9. -/
theorem resetMeetsTheInvariant : Obligations.ResetMeetsTheInvariant where
  cfg := by decide
  stored := warmResetValue_clear Config.reference resetDrawU
  mem := by decide
  text := by decide
  pc := by decide
  el := by decide
  outstanding := nofun
  late := fun h => absurd rfl h
  unsynced := nofun
  once := ⟨List.nodup_nil, List.nodup_nil, List.nodup_nil⟩

/-! ### The fifteen effective values -/

/-- Settles O54: a register that is present and not ignored is in effect, and the lines of 10_state.md R43 then lose that
condition. -/
theorem d128ChangesFiveFields : Obligations.D128ChangesFiveFields := by
  intro c n w hp hi
  have hin : inEffect c n = true := by simp [inEffect, hp, hi]
  have hd : effD128 c n w = (c.featD128 && w.getLsbD 5) := by rw [effD128, hin, Bool.and_true]
  refine ⟨?_, fun hf hw => ?_, fun hf hw => ?_⟩
  · simp only [effective, hin, hd, Bool.and_true, and_self]
  · have hd1 : effD128 c n w = true := by rw [hd, hf, hw, Bool.and_self]
    simp [effective, hin, hd1]
  · have hd0 : effD128 c n w = false := by rw [hd, hw, Bool.and_false]
    simp [effective, hin, hd0]

/-- While the register is ignored all its effective values are 0 (10_state.md R42). -/
theorem eff_of_tcr2Ignored (s : State) (h : tcr2Ignored s.cfg s.inputs = true) : s.eff = FieldBits.zero :=
  effective_of_not_inEffect s.cfg s.inputs s.tcr2El1 (by simp [inEffect, h])

/-- Settles O55: every switch stands at its 0 setting for the effective values 0. -/
theorem ignoredRegisterSwitchesNothing : Obligations.IgnoredRegisterSwitchesNothing := by
  intro s h
  rw [eff_of_tcr2Ignored s h]
  refine ⟨fun b f => ?_, rfl, fun b start bit => ?_, rfl, rfl, rfl, rfl, fun p => ?_, rfl, rfl⟩
  · cases b <;> rfl
  · cases b <;> cases start <;> rfl
  · cases p <;> rfl

/-! ### What the fields switch -/

theorem globality_eq_forcedNonGlobal_iff (e : FieldBits) (b : Ttbr) (f : TranslationFacts) :
    globality e b f = .forcedNonGlobal ↔
      fngFor e b = true ∨ (fngnaFor e b = true ∧ f.regimeEl10 = true ∧ f.bothStages = true ∧ f.protection = true ∧
        f.assured = false) := by
  unfold globality
  split
  · next h => simpa [and_assoc] using h
  · next h => simpa [and_assoc] using h

/-- With PnCH 1 bit[52] is the Protected bit and the entry has no Contiguous bit (10_state.md R38). -/
theorem bit52_of_pnch (e : FieldBits) (b : Ttbr) (start bit : Bool) (h : e.pnch = true) :
    bit52Use e = .protectedBit ∧ protectedBit e bit = some bit ∧ contiguousBit e b start bit = none := by
  have hu : bit52Use e = .protectedBit := by simp [bit52Use, bit52IsProtected, h]
  simp [protectedBit, contiguousBit, hu]

/-- With PnCH 0 bit[52] is the Contiguous bit, which DisCH alone clears, in the Start Table (10_state.md R29, R30, R38). -/
theorem bit52_of_not_pnch (e : FieldBits) (b : Ttbr) (start bit : Bool) (h : e.pnch = false) :
    bit52Use e = .contiguousBit ∧ protectedBit e bit = none ∧
      contiguousBit e b start bit = some (if start && disCHFor e b then false else bit) := by
  have hu : bit52Use e = .contiguousBit := by simp [bit52Use, bit52IsProtected, h]
  simp [protectedBit, contiguousBit, hu]

/-- An RCWS write may act on the current effective PTTWI (10_state.md R32, R46). -/
theorem rcwsMayHave_eff (s : State) : rcwsMayHave s (rcwsReducedCoherence s s.eff.pttwi) = true := by
  rw [rcwsMayHave, List.any_eq_true]
  have huse : mayUse s .pttwi s.eff.pttwi = true := mayUse_eff s .pttwi
  exact ⟨s.eff.pttwi, by cases s.eff.pttwi <;> simp, by simp [huse]⟩

/-- Settles O56. -/
theorem fieldsSwitchTranslation : Obligations.FieldsSwitchTranslation := by
  intro s e
  refine ⟨fun b f => ?_, fun b start bit => ⟨bit52_of_pnch e b start bit, fun h => ?_⟩, rfl, fun h2 hx => ?_,
    rcwsMayHave_eff s, ?_, ?_, rfl, rfl, rfl, rfl, rfl⟩
  · rw [globality_eq_forcedNonGlobal_iff]
    cases b <;> rfl
  · obtain ⟨hu, hprot, hcont⟩ := bit52_of_not_pnch e b start bit h
    refine ⟨hu, hprot, fun hs hd => ?_, fun hn => ?_⟩
    · have hd' : disCHFor e b = true := by cases b <;> exact hd
      rw [hcont, hs, hd']
      rfl
    · have hn' : (start && disCHFor e b) = false := by
        rw [Bool.and_eq_false_iff]
        cases b <;> exact hn
      rw [hcont, hn']
      rfl
  · simp [rcwsReducedCoherence, h2, hx]
  · cases h : e.d128 <;> simp [translationSystem, h]
  · cases h : e.pie <;> simp [permissionModel, h]

/-! ### Which values may be used -/

/-- Settles O57: once the register is ignored the stored values are used as 0, and the effective values of the window stay. -/
theorem inputsChangeOnlyEffectiveValues : Obligations.InputsChangeOnlyEffectiveValues := by
  intro s n rest hs
  obtain ⟨hstep, halone⟩ := step_of_move s (setInputs n { s with schedule := rest }) (.setInputs n) rest hs rfl rfl
  refine ⟨_, hstep, halone, rfl, fun f => rfl, fun f b hf hign => ?_⟩
  have hc : f.tlbCacheable = false := by obtain rfl | rfl := hf <;> rfl
  have hzero (w : Word) : (effective s.cfg n w).get f = false := effective_get_of_ignored s.cfg n w f hign
  rw [mayUse_iff]
  constructor
  · rintro (⟨w, -, hb⟩ | he | ⟨ht, -⟩)
    · exact .inl (hb.symm.trans (hzero w))
    · exact .inr he
    · exact absurd ht (by simp [hc])
  · rintro (rfl | he)
    · exact .inl ⟨s.tcr2El1, List.mem_cons_self, hzero s.tcr2El1⟩
    · exact .inr (.inl he)

/-- The effective values of the window survive the settling after a move (70 R167). -/
theorem mem_unsyncedEff_settleBeforeNext (s : State) (e : FieldBits) (h : e ∈ s.unsyncedEff) :
    e ∈ (settleBeforeNext s).unsyncedEff :=
  settleBeforeNext_keeps (fun t => e ∈ t.unsyncedEff) (fun _ _ _ h => h)
    (fun t v h => (mem_putTcr2El1_unsyncedEff t v e).mpr (.inr h)) (fun _ _ h => h) s h

/-- An effective value of the window may be used, whatever the inputs become (70 R167, R168). -/
theorem mayUse_setInputs_of_mem_unsyncedEff (s : State) (f : Field) (e : FieldBits) (h : e ∈ s.unsyncedEff) :
    mayUse s f (e.get f) = true ∧ ∀ n, mayUse (setInputs n s) f (e.get f) = true :=
  ⟨mayUse_of_mem_unsyncedEff s f e h, fun n => mayUse_of_mem_unsyncedEff (setInputs n s) f e h⟩

/-- An instruction that changes the stored value opens the window of 70 R167 for the old and the new effective values. -/
theorem exec_opens_window (i : Instr) (s s' : State) (h : exec i s = .next s') (hne : s'.tcr2El1 ≠ s.tcr2El1) :
    s.eff ∈ s'.unsyncedEff ∧ s'.eff ∈ s'.unsyncedEff := by
  obtain ⟨w, rfl⟩ | ⟨v, ro, rfl⟩ | rfl | rfl | rfl := exec_next i s s' h
  · exact absurd rfl hne
  · exact ⟨(mem_putTcr2El1_unsyncedEff s _ _).mpr (.inl ⟨hne, .inl rfl⟩),
      (mem_putTcr2El1_unsyncedEff s _ _).mpr (.inl ⟨hne, .inr rfl⟩)⟩
  · exact absurd rfl hne
  · exact absurd rfl hne
  · exact absurd rfl hne

/-! ### An instruction executed late -/

/-- The decoder takes the word of a well-formed instruction back to it (30_encoding.md R84, R90). -/
theorem decodeWord_encode (i : Instr) (hw : i.wf = true) : decodeWord (encode i) = .ok i := by
  have hfixed : Laws.FixedBits.Statement i := by
    cases i with
    | mrsTcr2El1 t => exact Laws.FixedBits.mrsTcr2El1 t
    | msrTcr2El1 t => exact Laws.FixedBits.msrTcr2El1 t
    | mrsTcr2El12 t => exact Laws.FixedBits.mrsTcr2El12 t
    | msrTcr2El12 t => exact Laws.FixedBits.msrTcr2El12 t
    | mrsTcr2AliasEl1 t => exact Laws.FixedBits.mrsTcr2AliasEl1 t
    | msrTcr2AliasEl1 t => exact Laws.FixedBits.msrTcr2AliasEl1 t
  obtain ⟨hbits, hrt⟩ := hfixed hw
  have hmask : encode i &&& rtMask = Laws.FixedBits.matchOf i := hbits
  rw [decodeWord, hmask, hrt]
  cases i <;> rfl

/-- The instruction whose word lies at an aligned pc is the one fetched (30_encoding.md R82, R90). -/
theorem fetch_of_textAt (i : Instr) (s : State) (hw : i.wf = true) (ha : s.pcAligned = true) (ht : TextAt s s.pc i) :
    fetch s = .ok i := by
  simp only [fetch, ha, ht 0 (by decide), ht 1 (by decide), ht 2 (by decide), ht 3 (by decide), decodeBytes,
    wordOfBytes_wordByte, decodeWord_encode i hw]
  rfl

/-- What an MSR executed late will store is the merge of its name: at EL3 no bit is read-only (10_state.md R44, R45). -/
theorem lateEffect_of_write (i : Instr) (s : State) (hl : s.el = .el3) (hd : i.direction = .write) :
    lateEffect i s = .write (mergedValue i s) := by
  have hro : readOnlyFor i s = 0 := readOnlyFor_of_not_el1 i s (by simp [hl])
  rw [lateEffect, hd, mergedValue, hro]
  rfl

/-- An MSR executed late opens the window for its new value and each value it may find that differs from it (70 R167; 20_memory.md
R68). -/
theorem mem_unsyncedEff_enqueueLate (i : Instr) (s : State) (hl : s.el = .el3) (hd : i.direction = .write) (old w : Word)
    (hold : old ∈ s.mayHold) (hne : old ≠ mergedValue i s) (hw : w = old ∨ w = mergedValue i s) :
    effective s.cfg s.inputs w ∈ (enqueueLate i s).unsyncedEff := by
  rw [enqueueLate_unsyncedEff, mem_rememberAll]
  exact .inl (List.mem_map_of_mem ((mem_lateWindow s i _ w (lateEffect_of_write i s hl hd)).mpr ⟨old, hold, hne.symm, hw⟩))

/-- A step that executes an access late (20_memory.md R68). -/
theorem step_executeLate (i : Instr) (s : State) (rest : List Move) (hw : i.wf = true) (ha : s.pcAligned = true)
    (ht : TextAt s s.pc i) (hs : s.schedule = .executeLate :: rest) (hl : lateAllowed i s = true) :
    step s = .next (settleBeforeNext (issueLate i { s with schedule := rest })) := by
  have hf : fetch { s with schedule := rest } = .ok i := fetch_of_textAt i s hw ha ht
  have hl' : lateAllowed i { s with schedule := rest } = true := by
    cases i <;> exact hl
  rw [step_of_schedule s _ rest hs, applyMove, executeLate, hf]
  simp only [hl', if_true, settled]

/-- Settles O58: in each case by what the three histories hold. -/
theorem writeIsSeenOldOrNewUntilSynchronize : Obligations.WriteIsSeenOldOrNewUntilSynchronize := by
  refine ⟨fun i s s' h hne f => ?_, fun i s rest hw ha ht hs hl hd => ?_, fun s f b hf => ?_, fun s d f b hf hu he => ?_⟩
  · obtain ⟨hold, hnew⟩ := exec_opens_window i s s' h hne
    obtain ⟨ho, hon⟩ := mayUse_setInputs_of_mem_unsyncedEff s' f _ hold
    obtain ⟨hn, hnn⟩ := mayUse_setInputs_of_mem_unsyncedEff s' f _ hnew
    exact ⟨ho, hn, fun n => ⟨hon n, hnn n⟩⟩
  · have hel : s.el = .el3 := by
      simp only [lateAllowed, Bool.and_eq_true, beq_iff_eq] at hl
      exact hl.1.1.1
    refine ⟨_, step_executeLate i s rest hw ha ht hs hl, fun old w hold hne hww f => ?_⟩
    refine mayUse_setInputs_of_mem_unsyncedEff _ f _ (mem_unsyncedEff_settleBeforeNext _ _ ?_)
    have hr : (settleRegisters i { s with schedule := rest }).el = .el3 := by simp [settleRegisters, hel]
    have hmem := mem_unsyncedEff_enqueueLate i _ hr hd old w ((mem_mayHold _ old).mpr hold) hne hww
    simpa only [issueLate, settleRegisters, performNames_cfg, performNames_inputs] using hmem
  · exact mayUse_iff_eff (synchronize s) f b rfl rfl (.inl (by obtain rfl | rfl := hf <;> rfl))
  · exact mayUse_iff_eff (warmReset d s) f b hu he (.inl (by obtain rfl | rfl := hf <;> rfl))

end Sys2Proof.Proofs
end

section
/-! SUPPORT. Rules about a step of the PE, said once: which instruction it runs and on which state (20_memory.md R69), when the
two moves of the PE are one (R68), and which outstanding effects an instruction follows. -/

namespace Sys2Proof.Machine

/-! ### What the chains and the fetch read -/

/-- The chain of an instruction reads the parameters, the level and the inputs alone (40 R101, R102; 41 R111, R112; 42 R121,
R122). -/
theorem verdictOf_congr (i : Instr) (s s' : State) (hc : s'.cfg = s.cfg) (hl : s'.el = s.el) (hn : s'.inputs = s.inputs) :
    verdictOf i s' = verdictOf i s := by
  cases s
  cases s'
  cases hc
  cases hl
  cases hn
  cases i <;> rfl

/-- So does the question whether R68 speaks of it. -/
theorem lateAllowed_congr (i : Instr) (s s' : State) (hc : s'.cfg = s.cfg) (hl : s'.el = s.el)
    (hn : s'.inputs = s.inputs) : lateAllowed i s' = lateAllowed i s := by
  rw [lateAllowed, lateAllowed, verdictOf_congr i s s' hc hl hn, hl, hn]

/-- The fetch reads pc and the program text alone (30_encoding.md R82). -/
theorem fetch_congr (s s' : State) (hp : s'.pc = s.pc) (ht : s'.text = s.text) : fetch s' = fetch s := by
  cases s
  cases s'
  cases hp
  cases ht
  rfl

/-- R68 speaks of accesses at EL3 with E2H 1, by its two names, to the register (20_memory.md R68). -/
theorem lateAllowed_iff (i : Instr) (s : State) :
    lateAllowed i s = true ↔
      s.el = .el3 ∧ s.inputs.hcrE2H = true ∧ crossNamed i.accessor = true ∧ verdictOf i s = .go .tcr2El1 := by
  simp [lateAllowed, and_assoc]

/-- Before an access of R68 the instruction at pc is one, and conversely (20_memory.md R69). -/
theorem nextMayOvertake_iff (s : State) : nextMayOvertake s = true ↔ ∃ i, fetch s = .ok i ∧ lateAllowed i s = true := by
  unfold nextMayOvertake
  split
  · next i hi => simp [hi]
  · next r hr => simp [hr]

/-! ### Which instruction a step runs -/

/-- The word at an aligned pc, once decoded, is the instruction fetched (30_encoding.md R82, R90). -/
theorem fetch_of_word (i : Instr) (w : InstrWord) (s : State) (ha : s.pcAligned = true)
    (ht : ∀ k, k < 4 → lookupCell s.text (byteAddr s.pc k) = some (wordByte w k)) (hw : decodeWord w = .ok i) :
    fetch s = .ok i := by
  simp only [fetch, ha, ht 0 (by decide), ht 1 (by decide), ht 2 (by decide), ht 3 (by decide), decodeBytes,
    wordOfBytes_wordByte, hw]
  rfl

/-- The move a step makes, and the schedule it leaves: the head's, or, with the schedule empty, the PE's in program order
(log 6). -/
def NextMove (s : State) (m : Move) (rest : List Move) : Prop :=
  s.schedule = m :: rest ∨ s.schedule = [] ∧ m = .execute ∧ rest = []

theorem withSchedule_nil (s : State) (h : s.schedule = []) : { s with schedule := [] } = s := by
  rw [← h]

/-- A step is its move with the settling after it (log 6). -/
theorem step_of_nextMove (s : State) (m : Move) (rest : List Move) (h : NextMove s m rest) :
    step s = takeMove m { s with schedule := rest } := by
  obtain hs | ⟨hs, rfl, rfl⟩ := h
  · exact step_of_schedule s m rest hs
  · rw [withSchedule_nil s hs, step, hs]

/-- The PE executes an instruction in program order: by that move, or by the other where R68 does not speak of the instruction
(20_memory.md R69). -/
def InOrder (m : Move) (i : Instr) (s : State) : Prop :=
  m = .execute ∨ m = .executeLate ∧ lateAllowed i s = false

/-- In program order the instruction fetched runs on the settled state (20_memory.md R69). -/
theorem takeMove_inOrder (m : Move) (i : Instr) (s : State) (hm : InOrder m i s) (hf : fetch s = .ok i) :
    takeMove m s = settled (exec i (settle i s)) := by
  obtain rfl | ⟨rfl, hl⟩ := hm
  · rw [takeMove, applyMove, executeNow, hf]
  · rw [takeMove, applyMove, executeLate, hf]
    simp only [hl, Bool.false_eq_true, if_false]

/-- An access of R68 executed late joins the outstanding ones (20_memory.md R68). -/
theorem takeMove_issueLate (i : Instr) (s : State) (hf : fetch s = .ok i) (hl : lateAllowed i s = true) :
    takeMove .executeLate s = .next (settleBeforeNext (issueLate i s)) := by
  rw [takeMove, applyMove, executeLate, hf]
  simp only [hl, if_true, settled]

/-- Where R68 does not speak of the instruction at pc both moves of the PE do the same (20_memory.md R69). -/
theorem takeMove_executeLate_eq_execute (s : State) (h : ∀ i, fetch s = .ok i → lateAllowed i s = false) :
    takeMove .executeLate s = takeMove .execute s := by
  cases hf : fetch s with
  | error r => simp only [takeMove, applyMove, executeLate, executeNow, hf]
  | ok i => rw [takeMove_inOrder .executeLate i s (.inr ⟨rfl, h i hf⟩) hf, takeMove_inOrder .execute i s (.inl rfl) hf]

/-- No meaning adds an outstanding access or takes one away. -/
theorem exec_outstanding (i : Instr) (s s' : State) (h : exec i s = .next s') : s'.outstanding = s.outstanding := by
  obtain ⟨w, rfl⟩ | ⟨v, ro, rfl⟩ | rfl | rfl | rfl := exec_next i s s' h <;> rfl

/-- With nothing outstanding there is nothing to settle after an instruction. -/
theorem settled_exec_nil (i : Instr) (s : State) (ho : s.outstanding = []) : settled (exec i s) = exec i s := by
  cases he : exec i s with
  | next t => rw [settled, settleBeforeNext_nil t ((exec_outstanding i s t he).trans ho)]
  | fault r => rfl
  | refused r => rfl

/-- With nothing outstanding the move is the meaning alone. -/
theorem takeMove_inOrder_nil (m : Move) (i : Instr) (s : State) (hm : InOrder m i s) (hf : fetch s = .ok i)
    (ho : s.outstanding = []) : takeMove m s = exec i s := by
  rw [takeMove_inOrder m i s hm hf, settle_nil i s ho, settled_exec_nil i s ho]

/-! ### Which outstanding effects happen -/

/-- Performing names that no outstanding access has changes nothing. -/
theorem performNames_of_none (p : Accessor → Bool) (s : State) (h : ∀ d ∈ s.outstanding, p d.name = false) :
    performNames p s = s := by
  have hkeep : s.outstanding.filter (fun d => !p d.name) = s.outstanding :=
    List.filter_eq_self.mpr fun d hd => by simp [h d hd]
  have hnone : s.outstanding.filter (fun d => p d.name) = [] :=
    List.filter_eq_nil_iff.mpr fun d hd => by simp [h d hd]
  rw [performNames, hkeep, hnone]
  rfl

/-- Performing names that every outstanding access has performs all. -/
theorem performNames_of_all (p : Accessor → Bool) (s : State) (h : ∀ d ∈ s.outstanding, p d.name = true) :
    performNames p s = performAll s := by
  have hnone : s.outstanding.filter (fun d => !p d.name) = [] :=
    List.filter_eq_nil_iff.mpr fun d hd => by simp [h d hd]
  have hall : s.outstanding.filter (fun d => p d.name) = s.outstanding :=
    List.filter_eq_self.mpr fun d hd => h d hd
  rw [performNames, hnone, hall, performAll_eq]

/-- An instruction that may overtake every outstanding access runs on the state as it is (20_memory.md R68). -/
theorem settle_of_none (i : Instr) (s : State) (h : ∀ d ∈ s.outstanding, mustPrecede i s d = false) : settle i s = s :=
  performNames_of_none _ s fun _ _ => List.any_eq_false.mpr fun e he => by simp [h e he]

/-- One that must follow every outstanding access runs when all effects have happened (20_memory.md R69). -/
theorem settle_of_all (i : Instr) (s : State) (h : ∀ d ∈ s.outstanding, mustPrecede i s d = true) :
    settle i s = performAll s :=
  performNames_of_all _ s fun d hd => List.any_eq_true.mpr ⟨d, hd, by simp [h d hd]⟩

/-- An instruction whose register no outstanding read has yet to write is issued on the state as it is. -/
theorem settleRegisters_of_none (i : Instr) (s : State) (h : ∀ d ∈ s.outstanding, registerConflict i d = false) :
    settleRegisters i s = s :=
  performNames_of_none _ s fun _ _ => List.any_eq_false.mpr fun e he => by simp [h e he]

/-- Performing all outstanding effects is the same before and after a move's settling. -/
theorem performAll_settleBeforeNext (s : State) : performAll (settleBeforeNext s) = performAll s := by
  obtain ⟨-, hs⟩ | hs := settleBeforeNext_cases s
  · rw [hs]
  · rw [hs, performAll_nil _ (performAll_outstanding s)]

@[simp] theorem settleBeforeNext_pc (s : State) : (settleBeforeNext s).pc = s.pc :=
  settleBeforeNext_proj State.pc performNames_pc s

@[simp] theorem settleBeforeNext_schedule (s : State) : (settleBeforeNext s).schedule = s.schedule :=
  settleBeforeNext_proj State.schedule performNames_schedule s

end Sys2Proof.Machine
end

section
/-! SUPPORT. The obligations about a single step: which instruction it runs (20_memory.md R69; 30_encoding.md R82), where the
two moves of the PE are one (R68), and what is outstanding when the machine stops or a run ends (60_exceptions.md R139; 70
R172). -/

namespace Sys2Proof.Proofs

open Sys2Proof.Machine Sys2Proof.Safety

/-- Settles O7: the instruction at pc is the one fetched. -/
theorem stepRunsTheDecodedInstruction : Obligations.StepRunsTheDecodedInstruction := by
  intro s i hw ha ht
  have hf := fetch_of_textAt i s hw ha ht
  refine ⟨fun hs => ?_, fun rest hs => ?_, fun hs ho => ?_⟩
  · rw [step_of_nextMove s .execute [] (.inr ⟨hs, rfl, rfl⟩), withSchedule_nil s hs,
      takeMove_inOrder .execute i s (.inl rfl) hf]
  · rw [step_of_nextMove s .execute rest (.inl hs)]
    exact takeMove_inOrder .execute i { s with schedule := rest } (.inl rfl) hf
  · rw [step_of_nextMove s .execute [] (.inr ⟨hs, rfl, rfl⟩), withSchedule_nil s hs,
      takeMove_inOrder_nil .execute i s (.inl rfl) hf ho]

/-- Settles O8: the word placed at pc is the one fetched, and with nothing outstanding the step is its meaning. -/
theorem placedWordRunsNext : Obligations.PlacedWordRunsNext := by
  intro s w i hw ha ho hd
  have hplace : s.withFetchWord 32 w =
      { s with text := placeWord s.text s.pc (BitVec.ofNat 32 w), schedule := .execute :: s.schedule } := by
    rw [State.withFetchWord, State.placeNext, Nat.mod_eq_of_lt hw]
  have hf : fetch { s with text := placeWord s.text s.pc (BitVec.ofNat 32 w) } = .ok i :=
    fetch_of_word i (BitVec.ofNat 32 w) _ ha (placeWord_lookup s.text s.pc (BitVec.ofNat 32 w)) hd
  rw [hplace, step_of_nextMove _ .execute s.schedule (.inl rfl)]
  exact takeMove_inOrder_nil .execute i _ (.inl rfl) hf ho

/-- Settles O52: R68 speaks of EL3 with E2H 1 alone. -/
theorem lateMeansNothingElsewhere : Obligations.LateMeansNothingElsewhere := by
  intro s rest h
  rw [step_of_nextMove _ .executeLate rest (.inl rfl), step_of_nextMove _ .execute rest (.inl rfl)]
  refine takeMove_executeLate_eq_execute { s with schedule := rest } fun i _ => ?_
  rw [Bool.eq_false_iff, ne_eq, lateAllowed_iff]
  rintro ⟨hl, he, -⟩
  obtain h | h := h
  · exact h hl
  · exact Bool.false_ne_true (h.symm.trans he)

/-! ### Stops and ends of runs -/

/-- A move answers a next state where the instruction at pc is an access of R68: such an access completes, late or in program
order, and the other moves always do (20_memory.md R68). -/
theorem applyMove_answers (m : Move) (s : State) (h : nextMayOvertake s = true) : ∃ s', applyMove m s = .next s' := by
  obtain ⟨i, hf, hl⟩ := (nextMayOvertake_iff s).mp h
  cases m with
  | execute =>
    have hv : verdictOf i (settle i s) = .go .tcr2El1 := by
      obtain ⟨-, -, -, hv⟩ := (lateAllowed_iff i s).mp hl
      rwa [verdictOf_congr i s (settle i s) (performNames_cfg _ s) (performNames_el _ s) (performNames_inputs _ s)]
    obtain ⟨s', he, -⟩ := exec_of_go_tcr2El1 i (settle i s) hv
    exact ⟨s', by rw [applyMove, executeNow, hf]; exact he⟩
  | executeLate => exact ⟨issueLate i s, by simp only [applyMove, executeLate, hf, hl, if_true]⟩
  | perform n => exact ⟨_, rfl⟩
  | synchronize => exact ⟨_, rfl⟩
  | setInputs n => exact ⟨_, rfl⟩
  | agentStore a v => exact ⟨_, rfl⟩
  | dropCached => exact ⟨_, rfl⟩
  | warmReset d => exact ⟨_, rfl⟩

/-- So does the step. -/
theorem step_answers (s : State) (h : nextMayOvertake s = true) : ∃ s', step s = .next s' := by
  obtain ⟨m, rest, hm⟩ : ∃ m rest, NextMove s m rest := by
    cases hs : s.schedule with
    | nil => exact ⟨.execute, [], .inr ⟨hs, rfl, rfl⟩⟩
    | cons m rest => exact ⟨m, rest, .inl hs⟩
  have h' : nextMayOvertake { s with schedule := rest } = true := by
    obtain ⟨i, hf, hl⟩ := (nextMayOvertake_iff s).mp h
    exact (nextMayOvertake_iff _).mpr ⟨i, hf, by rwa [lateAllowed_congr i s { s with schedule := rest } rfl rfl rfl]⟩
  obtain ⟨t, ht⟩ := applyMove_answers m _ h'
  exact ⟨settleBeforeNext t, by rw [step_of_nextMove s m rest hm, takeMove, ht, settled]⟩

/-- The state a run ends with, unless its bound was reached first. -/
def EndsWith (e : RunEnd) (s : State) : Prop :=
  e = .normal s ∨ (∃ r, e = .fault s r) ∨ ∃ q, e = .refused s q

/-- A run ends with a state in which every effect has happened (log 34). -/
theorem runTo_endsWith_performAll (last : Word) (fuel : Nat) (s s' : State) (h : EndsWith (runTo last fuel s) s') :
    ∃ t, s' = performAll t := by
  induction fuel generalizing s with
  | zero =>
    rw [runTo] at h
    split at h
    · obtain h | ⟨_, h⟩ | ⟨_, h⟩ := h <;> cases h
      exact ⟨s, rfl⟩
    · obtain h | ⟨_, h⟩ | ⟨_, h⟩ := h <;> cases h
  | succ fuel ih =>
    rw [runTo] at h
    split at h
    · obtain h | ⟨_, h⟩ | ⟨_, h⟩ := h <;> cases h
      exact ⟨s, rfl⟩
    · split at h
      · next t _ => exact ih t h
      · obtain h | ⟨_, h⟩ | ⟨_, h⟩ := h <;> cases h
        exact ⟨s, rfl⟩
      · obtain h | ⟨_, h⟩ | ⟨_, h⟩ := h <;> cases h
        exact ⟨s, rfl⟩

/-- Settles O51: by the invariant an effect is outstanding only before an access of R68, and there every step answers. -/
theorem stoppedMachineHasNothingOutstanding : Obligations.StoppedMachineHasNothingOutstanding := by
  constructor
  · intro s hinv hstop
    have ho : s.outstanding = [] := by
      by_contra hne
      obtain ⟨s', hs'⟩ := step_answers s (hinv.late hne)
      exact hstop s' hs'
    exact ⟨ho, performAll_nil s ho⟩
  · intro last fuel s s' r q h
    have hend : EndsWith (runTo last fuel s) s' := h.imp_right (Or.imp (fun e => ⟨r, e⟩) fun e => ⟨q, e⟩)
    obtain ⟨t, rfl⟩ := runTo_endsWith_performAll last fuel s s' hend
    exact performAll_outstanding t

end Sys2Proof.Proofs
end

section
/-! SUPPORT. The obligations about the NVMem access: where it stops, what the name TCR2_EL12 reaches at EL1, and the eight bytes
that the three names and other agents share (20_memory.md R60 to R66, R73; 41 R110 to R112; 70 R170). -/

namespace Sys2Proof.Proofs

open Sys2Proof.Machine Sys2Proof.Safety

/-! ### Where the access stops -/

section
variable (i : Instr) (s : State) (h : verdictOf i s = .go .nvMem)
include h

/-- The refusal of a misaligned base comes first (20_memory.md R63). -/
theorem exec_nvMem_misaligned (hal : s.nvMemAligned = false) :
    exec i s = .refused (.nvMemBaseMisaligned s.inputs.nvMemBase) := by
  cases hd : i.direction with
  | read => simp only [exec_of_read i s hd, h, completeRead, completeNvMemRead, hal, Bool.not_false, if_true]
  | write => simp only [exec_of_write i s hd, h, completeWrite, completeNvMemWrite, hal, Bool.not_false, if_true]

/-- Then the PE is stuck on a byte that is not admitted (20_memory.md R65). -/
theorem exec_nvMem_notAdmitted (hal : s.nvMemAligned = true) (had : s.nvMemAdmitted = false) :
    exec i s = .fault (.nvMemNotAdmitted s.pc (encode i)) := by
  cases hd : i.direction with
  | read =>
    rw [exec_of_read i s hd, h, completeRead, completeNvMemRead, hal, had]
    rfl
  | write =>
    rw [exec_of_write i s hd, h, completeWrite, completeNvMemWrite, hal, had]
    rfl

/-- Then a write is refused on program text (20_memory.md R73). -/
theorem exec_nvMem_onText (hd : i.direction = .write) (hal : s.nvMemAligned = true) (had : s.nvMemAdmitted = true)
    (hon : s.nvMemOnText = true) : exec i s = .refused (.nvMemWriteOntoText s.nvMemAddr) := by
  rw [exec_of_write i s hd, h, completeWrite, completeNvMemWrite, hal, had, hon]
  rfl

/-- A read of memory that completes took the eight bytes of NVMem (20_memory.md R60). -/
theorem exec_nvMem_read_next (s' : State) (hd : i.direction = .read) (he : exec i s = .next s') :
    s' = ((s.writeX i.reg s.nvMemValue).recordNvMem .read s.nvMemValue).advance := by
  rw [exec_of_read i s hd, h] at he
  obtain ⟨hv, -⟩ | ⟨hv, -⟩ | ⟨-, -, -, hs⟩ := completeRead_next _ _ _ s s' he
  · cases hv
  · cases hv
  · exact hs

/-- A write of memory that completes was ready and stored the register in the eight bytes of NVMem (20_memory.md R60, R63,
R65). -/
theorem exec_nvMem_write_next (s' : State) (hd : i.direction = .write) (he : exec i s = .next s') :
    NvMemReady s ∧ s' = ((s.putNvMem (s.readX i.reg)).recordNvMem .write (s.readX i.reg)).advance := by
  rw [exec_of_write i s hd, h] at he
  obtain ⟨hv, -⟩ | ⟨hv, -⟩ | ⟨-, hal, had, -, hs⟩ := completeWrite_next _ _ _ _ s s' he
  · cases hv
  · cases hv
  · exact ⟨(nvMemReady_iff s).mpr ⟨hal, had⟩, hs⟩

/-- A read of memory that is ready puts the eight bytes of NVMem in its register. -/
theorem exec_nvMem_reads_value (hd : i.direction = .read) (hr : NvMemReady s) (hu : i.reg < 31) :
    ∃ s', exec i s = .next s' ∧ s'.readX i.reg = s.nvMemValue := by
  obtain ⟨s', -, he, -⟩ := mrs_reads_nvMem i s hd h hr
  refine ⟨s', he, ?_⟩
  rw [exec_nvMem_read_next i s h s' hd he, State.advance_readX, State.recordNvMem_readX, State.writeX_readX_self, if_pos hu]

end

/-- Settles O45, stop by stop. -/
theorem nvMemAccessStopsByName : Obligations.NvMemAccessStopsByName := by
  intro i s hdir
  have hv := (verdictOf_eq_go_nvMem_iff i s).mpr hdir
  refine ⟨fun hmis => ?_, fun hal hnot => ?_, fun hr hd hon => ?_⟩
  · exact exec_nvMem_misaligned i s hv (beq_eq_false_iff_ne.mpr hmis)
  · have hal' : s.nvMemAligned = true := beq_iff_eq.mpr hal
    have had : s.nvMemAdmitted = false := by simpa [nvMemReady_iff, hal'] using hnot
    exact exec_nvMem_notAdmitted i s hv hal' had
  · obtain ⟨hal, had⟩ := (nvMemReady_iff s).mp hr
    have hon' : s.nvMemOnText = true := by simpa [nvMemClearOfText_iff] using hon
    exact exec_nvMem_onText i s hv hd hal had hon'

/-! ### The name TCR2_EL12 at EL1 -/

/-- At EL1 the chain of the name TCR2_EL12 goes to memory or nowhere (41 R110 to R112). -/
theorem verdictTcr2El12_el1_go (s : State) (p : Place) (hl : s.el = .el1) (h : verdictTcr2El12 s = .go p) : p = .nvMem := by
  simp only [verdictTcr2El12, hl] at h
  grind

/-- So where an access by that name completes at EL1, it was directed to a memory access that is ready. -/
theorem directedToNvMem_of_exec_el12 (i : Instr) (s s' : State) (ha : i.accessor = .tcr2El12) (hl : s.el = .el1)
    (h : exec i s = .next s') : DirectedToNvMem i s := by
  obtain ⟨p, hp⟩ := go_of_exec_next i s s' h
  rw [verdictOf_eq_verdictTcr2El12 i s ha] at hp
  rw [← verdictOf_eq_go_nvMem_iff, verdictOf_eq_verdictTcr2El12 i s ha, hp, verdictTcr2El12_el1_go s p hl hp]

/-- Directed to memory by that name, NVx is '101' (41 R111, R112). -/
theorem nvx_of_directedToNvMem_el12 (i : Instr) (s : State) (ha : i.accessor = .tcr2El12) (h : DirectedToNvMem i s) :
    s.inputs.nvx = 0b101#3 := by
  obtain ⟨-, -, ⟨-, hn⟩ | ⟨hne, -⟩⟩ := h
  · exact hn
  · exact absurd ha hne

/-- Settles O36: the access was directed to memory, where it completes by direction. -/
theorem nameTcr2El12AtEl1IsMemoryOnly : Obligations.NameTcr2El12AtEl1IsMemoryOnly := by
  intro t s s' hl
  constructor
  · intro h
    have hdir := directedToNvMem_of_exec_el12 _ s s' rfl hl h
    have hs := exec_nvMem_read_next _ s ((verdictOf_eq_go_nvMem_iff _ s).mpr hdir) s' rfl h
    exact ⟨nvx_of_directedToNvMem_el12 _ s rfl hdir, _, hs ▸ readsNvMem_writeX s t⟩
  · intro h
    have hdir := directedToNvMem_of_exec_el12 _ s s' rfl hl h
    obtain ⟨-, hs⟩ := exec_nvMem_write_next _ s ((verdictOf_eq_go_nvMem_iff _ s).mpr hdir) s' rfl h
    exact ⟨nvx_of_directedToNvMem_el12 _ s rfl hdir, hs ▸ storesNvMem_putNvMem s (s.readX t)⟩

/-! ### The bytes that the three names and other agents share -/

/-- Another agent's store, by bytes (20_memory.md R64). -/
theorem agentStore_shares_bytes (s : State) (a : Word) (v : Byte) (rest : List Move)
    (hs : s.schedule = .agentStore a v :: rest) :
    ∃ s', step s = .next (settleBeforeNext s') ∧ (s.outstanding = [] → step s = .next s') ∧
      s' = { s with mem := s'.mem, schedule := rest } ∧ s'.mem.readByte a.toNat = v ∧
      ∀ b, b ≠ a.toNat → s'.mem.readByte b = s.mem.readByte b := by
  obtain ⟨hstep, halone⟩ := step_of_move s (agentStore a v { s with schedule := rest }) (.agentStore a v) rest hs rfl rfl
  refine ⟨_, hstep, halone, rfl, ?_, fun b hb => ?_⟩
  · rw [agentStore_mem, Memory.readByte_writeByte, if_pos rfl]
  · rw [agentStore_mem, Memory.readByte_writeByte, if_neg hb]

/-- The state after a write of NVMem that completed. -/
def afterNvMemWrite (s : State) (v : Word) : State :=
  ((s.putNvMem v).recordNvMem .write v).advance

/-- After a write of NVMem, whatever the inputs but NVMemBase become, a read directed there returns the value written, whole and
in either byte order (20_memory.md R62, R66). -/
theorem exec_reads_written (i : Instr) (s : State) (v : Word) (n : Inputs) (hd : i.direction = .read) (hu : i.reg < 31)
    (hr : NvMemReady s) (hb : n.nvMemBase = s.inputs.nvMemBase)
    (hdir : DirectedToNvMem i { afterNvMemWrite s v with inputs := n }) :
    ∃ s', exec i { afterNvMemWrite s v with inputs := n } = .next s' ∧ s'.readX i.reg = v := by
  obtain ⟨haddr, hal, had, -, hval⟩ := nvMem_congr (afterNvMemWrite s v) n hb
  have hr' : NvMemReady { afterNvMemWrite s v with inputs := n } := by
    rw [nvMemReady_iff, hal, had]
    exact (nvMemReady_iff s).mp hr
  obtain ⟨s', he, hx⟩ := exec_nvMem_reads_value i _ ((verdictOf_eq_go_nvMem_iff i _).mpr hdir) hd hr' hu
  refine ⟨s', he, hx.trans (hval.trans ?_)⟩
  exact memRead8_memWrite8 s.cfg.nvMemBigEndian s.mem s.nvMemAddr v

/-- An access by the name TCR2_EL1 or TCR2ALIAS_EL1 is directed to memory with another such one, where no control stops it that
does not stop the other (20_memory.md R66). -/
theorem directedToNvMem_of_other (i j : Instr) (s : State) (hj : DirectedToNvMem j s) (hja : j.accessor ≠ .tcr2El12)
    (hia : i.accessor ≠ .tcr2El12) (himp : i.accessor = .tcr2AliasEl1 → s.cfg.featSRMASK = true)
    (hvm : vmTrapBit i s = vmTrapBit j s) (hft : fineTrapTest i s = false) : DirectedToNvMem i s := by
  obtain ⟨hjimp, hl, ⟨h12, -⟩ | ⟨-, hn, hctl, hscr⟩⟩ := hj
  · exact absurd h12 hja
  obtain ⟨hp, -⟩ := (implemented_iff s.cfg j).mp hjimp
  refine ⟨(implemented_iff s.cfg i).mpr ⟨hp, fun h => absurd h hia, himp⟩, hl, .inr ⟨hia, hn, ?_, hscr⟩⟩
  rintro ⟨hen, hset⟩
  rw [hvm, hft] at hset
  exact hctl ⟨hen, hset.imp_right fun h => h.elim nofun .inr⟩

/-- With FEAT_VHE and NVx '101' an access by the name TCR2_EL12 is directed to memory where one by another name was under '111'
(20_memory.md R66). -/
theorem directedToNvMem_el12_of_other (i j : Instr) (s : State) (hj : DirectedToNvMem j s) (hia : i.accessor = .tcr2El12)
    (hv : s.cfg.featVHE = true) : DirectedToNvMem i { s with inputs := { s.inputs with nvx := 0b101#3 } } := by
  obtain ⟨hjimp, hl, -⟩ := hj
  obtain ⟨hp, -⟩ := (implemented_iff s.cfg j).mp hjimp
  exact ⟨(implemented_iff s.cfg i).mpr ⟨hp, fun _ => hv, fun h => by simp [hia] at h⟩, hl, .inl ⟨hia, rfl⟩⟩

/-- Settles O44: each name is directed to the bytes that the write stored. -/
theorem allNamesShareTheNvMemBytes : Obligations.AllNamesShareTheNvMemBytes := by
  refine ⟨fun s a v rest hs => agentStore_shares_bytes s a v rest hs, fun t u s s1 hu hdir he => ?_⟩
  obtain ⟨hr, hs1⟩ := exec_nvMem_write_next _ s ((verdictOf_eq_go_nvMem_iff _ s).mpr hdir) s1 rfl he
  obtain rfl : s1 = afterNvMemWrite s (s.readX t) := hs1
  refine ⟨rfl, rfl, fun hvm hft => ?_, fun hsr hvm hft => ?_, fun hvhe => ?_⟩
  · exact exec_reads_written (.mrsTcr2El1 u) s (s.readX t) s.inputs rfl hu hr rfl
      (directedToNvMem_of_other (.mrsTcr2El1 u) _ s hdir nofun nofun nofun hvm hft)
  · exact exec_reads_written (.mrsTcr2AliasEl1 u) s (s.readX t) s.inputs rfl hu hr rfl
      (directedToNvMem_of_other (.mrsTcr2AliasEl1 u) _ s hdir nofun nofun (fun _ => hsr) hvm hft)
  · exact exec_reads_written (.mrsTcr2El12 u) s (s.readX t) { s.inputs with nvx := 0b101#3 } rfl hu hr rfl
      (directedToNvMem_el12_of_other (.mrsTcr2El12 u) _ s hdir rfl hvhe)

end Sys2Proof.Proofs
end

section
/-! SUPPORT. Accesses at EL3 and the two registers they work on: executing one in program order is having the effect it would
leave outstanding at once, so both orders of R68 are compared effect by effect (20_memory.md R68 to R70). -/

namespace Sys2Proof.Machine

open Sys2Proof.Safety

/-! ### What one effect reads and leaves alone -/

section
variable (s : State) (e : AccessEffect)

@[simp] theorem applyEffect_read (t : Nat) : applyEffect s (.read t) = s.writeX t s.tcr2El1 := rfl

@[simp] theorem applyEffect_write (v : Word) : applyEffect s (.write v) = s.putTcr2El1 v := rfl

@[simp] theorem applyEffect_cfg : (applyEffect s e).cfg = s.cfg := by cases e <;> rfl

@[simp] theorem applyEffect_el : (applyEffect s e).el = s.el := by cases e <;> rfl

@[simp] theorem applyEffect_inputs : (applyEffect s e).inputs = s.inputs := by cases e <;> rfl

@[simp] theorem applyEffect_text : (applyEffect s e).text = s.text := by cases e <;> rfl

@[simp] theorem applyEffect_pc : (applyEffect s e).pc = s.pc := by cases e <;> rfl

@[simp] theorem applyEffect_schedule : (applyEffect s e).schedule = s.schedule := by cases e <;> rfl

@[simp] theorem applyEffect_outstanding : (applyEffect s e).outstanding = s.outstanding := by cases e <;> rfl

end

/-- The general-purpose registers and TCR2_EL1, all that the accesses of R68 read and write, are the same in both states. -/
structure SameRegisters (s s' : State) : Prop where
  x : s'.x = s.x
  tcr2El1 : s'.tcr2El1 = s.tcr2El1

namespace SameRegisters

variable {s s' s'' : State}

theorem trans (h : SameRegisters s s') (h' : SameRegisters s' s'') : SameRegisters s s'' :=
  ⟨h'.x.trans h.x, h'.tcr2El1.trans h.tcr2El1⟩

theorem advance (h : SameRegisters s s') : SameRegisters s s'.advance :=
  ⟨h.x, h.tcr2El1⟩

theorem withSchedule (s : State) (m : List Move) : SameRegisters s { s with schedule := m } :=
  ⟨rfl, rfl⟩

theorem readX (h : SameRegisters s s') (u : Nat) : s'.readX u = s.readX u := by
  rw [State.readX, State.readX, h.x]

theorem applyEffect (h : SameRegisters s s') (e : AccessEffect) :
    SameRegisters (applyEffect s e) (applyEffect s' e) := by
  cases e with
  | read t =>
    refine ⟨?_, h.tcr2El1⟩
    rw [applyEffect_read, applyEffect_read, State.writeX_x, State.writeX_x, h.x, h.tcr2El1]
  | write v => exact ⟨h.x, rfl⟩

theorem applyEffects (h : SameRegisters s s') (l : List OutstandingAccess) :
    SameRegisters (applyEffects s l) (applyEffects s' l) := by
  induction l generalizing s s' with
  | nil => exact h
  | cons d l ih => exact ih (h.applyEffect d.effect)

/-- The effect of an access depends on these registers and on StorageMask. -/
theorem lateEffect_eq (h : SameRegisters s s') (hc : s'.cfg = s.cfg) (i : Instr) : lateEffect i s' = lateEffect i s := by
  rw [lateEffect, lateEffect, h.readX, h.tcr2El1, hc]

end SameRegisters

theorem applyEffects_append (s : State) (l l' : List OutstandingAccess) :
    applyEffects s (l ++ l') = applyEffects (applyEffects s l) l' := by
  induction l generalizing s with
  | nil => rfl
  | cons d l ih => exact ih _

theorem applyEffects_withSchedule (s : State) (m : List Move) (l : List OutstandingAccess) :
    applyEffects { s with schedule := m } l = { applyEffects s l with schedule := m } := by
  induction l generalizing s with
  | nil => rfl
  | cons d l ih =>
    have he : applyEffect { s with schedule := m } d.effect = { applyEffect s d.effect with schedule := m } := by
      cases d.effect <;> rfl
    rw [applyEffects, he, ih]
    rfl

theorem performAll_withSchedule (s : State) (m : List Move) :
    performAll { s with schedule := m } = { performAll s with schedule := m } := by
  rw [performAll_eq, performAll_eq]
  exact applyEffects_withSchedule { s with outstanding := [] } m s.outstanding

/-- An access executed late has its effect after those outstanding before it (20_memory.md R69). -/
theorem sameRegisters_performAll_enqueueLate (i : Instr) (s : State) :
    SameRegisters (applyEffect (performAll s) (lateEffect i s)) (performAll (enqueueLate i s)) := by
  rw [performAll_eq, performAll_eq, enqueueLate_outstanding, applyEffects_append]
  have h : SameRegisters { s with outstanding := [] } { enqueueLate i s with outstanding := [] } := ⟨rfl, rfl⟩
  exact (h.applyEffects s.outstanding).applyEffect (lateEffect i s)

/-! ### Performing and synchronizing after a move's settling -/

/-- The one outstanding effect happens by a `perform` of its name, if the settling before it has not performed it. -/
theorem performOldest_settled (s : State) (d : OutstandingAccess) (m : List Move) (h : s.outstanding = [d]) :
    performOldest d.name { settleBeforeNext s with schedule := m } = { performAll s with schedule := m } := by
  obtain ⟨-, hs⟩ | hs := settleBeforeNext_cases s
  · rw [hs, ← performAll_withSchedule, performAll_eq]
    simp only [performOldest, h, List.find?_cons, beq_self_eq_true, List.eraseP_cons, cond_true, applyEffects]
  · simp only [hs, performOldest, performAll_outstanding, List.find?_nil]

/-- Synchronize after a move's settling is Synchronize after the move (20_memory.md R70). -/
theorem synchronize_settled (s : State) (m : List Move) :
    synchronize { settleBeforeNext s with schedule := m } = synchronize { s with schedule := m } := by
  simp only [synchronize, performAll_withSchedule, performAll_settleBeforeNext]

/-- Synchronize leaves nothing to settle. -/
theorem takeMove_synchronize (s : State) : takeMove .synchronize s = .next (synchronize s) := by
  rw [takeMove, applyMove, settled, settleBeforeNext_nil (synchronize s) (performAll_outstanding s)]

/-! ### One access at EL3 -/

/-- In program order an access to the register has at once the effect it would have late (40 R100; 10_state.md R44, R45: at EL3
nothing is masked). -/
theorem exec_el3 (i : Instr) (s : State) (hl : s.el = .el3) (hv : verdictOf i s = .go .tcr2El1) :
    exec i s = .next (applyEffect s (lateEffect i s)).advance := by
  cases hd : i.direction with
  | read =>
    rw [exec_of_read i s hd, hv, lateEffect, hd]
    rfl
  | write =>
    have hro : readOnlyFor i s = 0 := Proofs.readOnlyFor_of_not_el1 i s (by simp [hl])
    rw [exec_of_write i s hd, hv, lateEffect, hd, hro]
    rfl

/-- One instruction further on, with all that the fetch and the chains read but pc as before. -/
structure OneFurther (s s' : State) : Prop where
  cfg : s'.cfg = s.cfg
  el : s'.el = s.el
  inputs : s'.inputs = s.inputs
  text : s'.text = s.text
  pc : s'.pc = s.pc + 4

namespace OneFurther

/-- The schedule left behind does not matter. -/
theorem of_withSchedule {s s' : State} {m : List Move} (h : OneFurther { s with schedule := m } s') : OneFurther s s' :=
  ⟨h.cfg, h.el, h.inputs, h.text, h.pc⟩

variable {s s' : State} (h : OneFurther s s')
include h

theorem withSchedule (m : List Move) : OneFurther s { s' with schedule := m } :=
  ⟨h.cfg, h.el, h.inputs, h.text, h.pc⟩

theorem fetch_eq : fetch s' = fetch s.advance :=
  fetch_congr s.advance s' h.pc h.text

theorem verdictOf_eq (i : Instr) : verdictOf i s' = verdictOf i s :=
  verdictOf_congr i s s' h.cfg h.el h.inputs

end OneFurther

/-- What an instruction executed in program order leaves with `e` as its effect, after those outstanding, is one further on. -/
theorem oneFurther_applyEffect_performAll (s : State) (e : AccessEffect) :
    OneFurther s (applyEffect (performAll s) e).advance := by
  constructor <;> simp [performAll]

theorem oneFurther_enqueueLate (i : Instr) (s : State) : OneFurther s (settleBeforeNext (enqueueLate i s)) := by
  constructor <;> simp

end Sys2Proof.Machine
end

section
/-! SUPPORT. One access at EL3, by either move of the PE, and two of R68 one after the other: late, in program order, and with
Synchronize between, each by what is left in the registers (20_memory.md R68 to R70). -/

namespace Sys2Proof.Proofs

open Sys2Proof.Machine Sys2Proof.Safety

/-! ### MRS and MSR by name -/

section
variable (a : Accessor) (t : Nat)

@[simp] theorem mrs_accessor : (mrs a t).accessor = a := by cases a <;> rfl

@[simp] theorem msr_accessor : (msr a t).accessor = a := by cases a <;> rfl

@[simp] theorem mrs_reg : (mrs a t).reg = t := by cases a <;> rfl

@[simp] theorem msr_reg : (msr a t).reg = t := by cases a <;> rfl

@[simp] theorem mrs_direction : (mrs a t).direction = .read := by cases a <;> rfl

@[simp] theorem msr_direction : (msr a t).direction = .write := by cases a <;> rfl

theorem mrs_wf (h : t ≤ 31) : (mrs a t).wf = true := by simpa [Instr.wf] using h

theorem msr_wf (h : t ≤ 31) : (msr a t).wf = true := by simpa [Instr.wf] using h

@[simp] theorem lateEffect_mrs (s : State) : lateEffect (mrs a t) s = .read t := by
  simp [lateEffect]

@[simp] theorem lateEffect_msr (s : State) : lateEffect (msr a t) s = .write (s.readX t &&& storageMask s.cfg) := by
  rw [lateEffect, msr_direction, msr_reg]
  exact congrArg AccessEffect.write (mergeTcr2_unmasked s.cfg s.tcr2El1 (s.readX t))

end

/-! ### Where R68 applies -/

section
variable (i : Instr) (s : State) (h : AtEl3Unordered s)
include h

/-- There an access that is implemented goes to the register, by any name (40 R103 row 16; 41 R113 row 11). -/
theorem verdictOf_atEl3 (hsr : i.accessor = .tcr2AliasEl1 → s.cfg.featSRMASK = true) : verdictOf i s = .go .tcr2El1 := by
  have himp : Implemented s.cfg i := (implemented_iff s.cfg i).mpr ⟨h.present, fun _ => h.vhe, hsr⟩
  by_cases ha : i.accessor = .tcr2El12
  · exact verdictOf_of_reachesRegisterEl12 i s himp ha ⟨h.host, .inr h.el⟩
  · exact verdictOf_of_reachesRegister i s himp ha (.inr (.inr h.el))

/-- There R68 speaks of the accesses by its two names. -/
theorem lateAllowed_atEl3 (hi : crossNamed i.accessor = true) : lateAllowed i s = true :=
  (lateAllowed_iff i s).mpr ⟨h.el, h.e2h, hi, verdictOf_atEl3 i s h fun ha => by simp [ha, crossNamed] at hi⟩

end

/-- Two consecutive instructions are fetched one after the other. -/
theorem fetch_of_pair (i j : Instr) (s : State) (hi : i.wf = true) (hj : j.wf = true) (ha : s.pcAligned = true)
    (hp : Pair s i j) : fetch s = .ok i ∧ fetch s.advance = .ok j :=
  ⟨fetch_of_textAt i s hi ha hp.1, fetch_of_textAt j s.advance hj (pcAligned_advance s ha) hp.2⟩

/-! ### One access -/

/-- What either move of the PE does with an access that must follow every outstanding one: it has its effect after theirs, at once
in program order, and is itself outstanding at most when R68 speaks of it (20_memory.md R69). -/
structure Accessed (m : Move) (i : Instr) (s s' : State) : Prop where
  further : OneFurther s s'
  schedule : s'.schedule = s.schedule
  registers : SameRegisters (applyEffect (performAll s) (lateEffect i s)) (performAll s')
  atOnce : m = .execute → s'.outstanding = []
  outstanding : ∀ d ∈ s'.outstanding, d ∈ s.outstanding ∨
    lateAllowed i s = true ∧ d = { name := i.accessor, effect := lateEffect i s }

section
variable (i : Instr) (s : State) (hf : fetch s = .ok i) (hl : s.el = .el3) (hv : verdictOf i s = .go .tcr2El1)
include hf hl hv

/-- Executed in program order it has its effect at once, on the state in which theirs have happened. -/
theorem takeMove_access_inOrder (m : Move) (hm : InOrder m i s) (hafter : ∀ d ∈ s.outstanding, mustPrecede i s d = true) :
    takeMove m s = .next (applyEffect (performAll s) (lateEffect i (performAll s))).advance := by
  have hel : (performAll s).el = .el3 := (performNames_el _ s).trans hl
  have hv' : verdictOf i (performAll s) = .go .tcr2El1 :=
    (verdictOf_congr i s (performAll s) (performNames_cfg _ s) (performNames_el _ s) (performNames_inputs _ s)).trans hv
  rw [takeMove_inOrder m i s hm hf, settle_of_all i s hafter, settled_exec_nil i _ (performAll_outstanding s),
    exec_el3 i (performAll s) hel hv']

/-- Executed by either move it is `Accessed`, where no outstanding read has yet to write its register. -/
theorem takeMove_access (m : Move) (hm : m ∈ [.execute, .executeLate])
    (hafter : ∀ d ∈ s.outstanding, mustPrecede i s d = true)
    (hfree : ∀ d ∈ s.outstanding, registerConflict i d = false)
    (heff : lateEffect i (performAll s) = lateEffect i s) : ∃ s', takeMove m s = .next s' ∧ Accessed m i s s' := by
  by_cases hord : InOrder m i s
  · refine ⟨_, takeMove_access_inOrder i s hf hl hv m hord hafter, ?_⟩
    rw [heff]
    have ho : (applyEffect (performAll s) (lateEffect i s)).advance.outstanding = [] := by
      rw [State.advance_outstanding, applyEffect_outstanding, performAll_outstanding]
    exact
      { further := oneFurther_applyEffect_performAll s _
        schedule := by simp [performAll]
        registers := by rw [performAll_nil _ ho]; exact ⟨rfl, rfl⟩
        atOnce := fun _ => ho
        outstanding := by rw [ho]; exact nofun }
  · obtain ⟨rfl, hlate⟩ : m = .executeLate ∧ lateAllowed i s = true := by
      simp only [List.mem_cons, List.not_mem_nil, or_false, InOrder] at hm hord
      grind
    refine ⟨_, takeMove_issueLate i s hf hlate, ?_⟩
    rw [issueLate, settleRegisters_of_none i s hfree]
    refine ⟨oneFurther_enqueueLate i s, by simp, ?_, nofun, fun d hd => ?_⟩
    · rw [performAll_settleBeforeNext]
      exact sameRegisters_performAll_enqueueLate i s
    · obtain ⟨-, hs⟩ | hs := settleBeforeNext_cases (enqueueLate i s)
      · rw [hs, enqueueLate_outstanding, List.mem_append, List.mem_singleton] at hd
        exact hd.imp_right fun h => ⟨hlate, h⟩
      · simp [hs, performAll_outstanding] at hd

/-- With nothing outstanding it needs no more. -/
theorem takeMove_access_nil (m : Move) (hm : m ∈ [.execute, .executeLate]) (ho : s.outstanding = []) :
    ∃ s', takeMove m s = .next s' ∧ Accessed m i s s' :=
  takeMove_access i s hf hl hv m hm (by simp [ho]) (by simp [ho]) (by rw [performAll_nil s ho])

/-- An access that may overtake every outstanding one has its effect before theirs (20_memory.md R68). -/
theorem takeMove_access_overtaking (hnone : ∀ d ∈ s.outstanding, mustPrecede i s d = false) :
    takeMove .execute s = .next (settleBeforeNext (applyEffect s (lateEffect i s)).advance) := by
  rw [takeMove_inOrder .execute i s (.inl rfl) hf, settle_of_none i s hnone, exec_el3 i s hl hv, settled]

end

/-! ### Two accesses, one by each name of R68 -/

/-- The step that makes a known move. -/
theorem runSteps_succ (k : Nat) (s s' : State) (m : Move) (rest : List Move) (hs : NextMove s m rest)
    (h : takeMove m { s with schedule := rest } = .next s') : runSteps (k + 1) s = runSteps k s' := by
  rw [runSteps, step_of_nextMove s m rest hs, h]

/-- The one outstanding effect happens last, by the `perform` of its name or in the settling before it. -/
theorem runSteps_perform (s : State) (d : OutstandingAccess) (ho : s.outstanding = [d])
    (hs : s.schedule = [.perform d.name]) :
    ∃ s', runSteps 1 (settleBeforeNext s) = .next s' ∧ s'.pc = s.pc ∧ SameRegisters (applyEffect s d.effect) s' := by
  have hnext : NextMove (settleBeforeNext s) (.perform d.name) [] := .inl ((settleBeforeNext_schedule s).trans hs)
  refine ⟨{ performAll s with schedule := [] }, (runSteps_succ 0 _ _ _ _ hnext ?_).trans rfl,
    performNames_pc _ s, ?_⟩
  · rw [takeMove, applyMove, performOldest_settled s d [] ho]
    exact congrArg Host.Outcome.next (settleBeforeNext_nil _ (performAll_outstanding s))
  · rw [performAll_eq, ho]
    have hsame : SameRegisters s { s with outstanding := [] } := ⟨rfl, rfl⟩
    exact (hsame.applyEffect d.effect).trans ⟨rfl, rfl⟩

/-- An access that overtakes the one outstanding access: its effect happens first, then that of the other (20_memory.md R68). -/
theorem runSteps_overtake (j : Instr) (s : State) (d : OutstandingAccess) (hf : fetch s = .ok j)
    (hl : lateAllowed j s = true) (ho : s.outstanding = [d]) (hd : mustPrecede j s d = false)
    (hs : s.schedule = [.execute, .perform d.name]) :
    ∃ s', runSteps 2 s = .next s' ∧ s'.pc = s.pc + 4 ∧
      SameRegisters (applyEffect (applyEffect s (lateEffect j s)) d.effect) s' := by
  obtain ⟨hel, -, -, hv⟩ := (lateAllowed_iff j s).mp hl
  have hnone : ∀ e ∈ s.outstanding, mustPrecede j { s with schedule := [.perform d.name] } e = false := by
    intro e he
    rw [ho, List.mem_singleton] at he
    rwa [he, mustPrecede, lateAllowed_congr j s { s with schedule := [.perform d.name] } rfl rfl rfl]
  have hv' : verdictOf j { s with schedule := [.perform d.name] } = .go .tcr2El1 := by
    rwa [verdictOf_congr j s { s with schedule := [.perform d.name] } rfl rfl rfl]
  have hsecond := takeMove_access_overtaking j { s with schedule := [.perform d.name] } hf hel hv' hnone
  obtain ⟨s', hrun, hpc, hregs⟩ := runSteps_perform
    (applyEffect { s with schedule := [.perform d.name] } (lateEffect j s)).advance d
    (by rw [State.advance_outstanding, applyEffect_outstanding, ho]) (applyEffect_schedule _ _)
  have hj := ((SameRegisters.withSchedule s [.perform d.name]).applyEffect (lateEffect j s)).advance
  exact ⟨s', (runSteps_succ 1 s _ _ _ (.inl hs) hsecond).trans hrun, by rw [hpc, State.advance_pc, applyEffect_pc],
    (hj.applyEffect d.effect).trans hregs⟩

/-- Two accesses of R68, one after the other and by different names, with nothing outstanding before. -/
structure LatePair (i j : Instr) (s : State) : Prop where
  fetchFirst : fetch s = .ok i
  fetchSecond : fetch s.advance = .ok j
  lateFirst : lateAllowed i s = true
  lateSecond : lateAllowed j s = true
  names : j.accessor ≠ i.accessor
  empty : s.outstanding = []

/-- What two accesses leave in the registers in program order. -/
def bothInOrder (i j : Instr) (s : State) : State :=
  applyEffect (applyEffect s (lateEffect i s)) (lateEffect j (applyEffect s (lateEffect i s)))

namespace LatePair

variable {i j : Instr} {s : State}

theorem withSchedule (h : LatePair i j s) (m : List Move) : LatePair i j { s with schedule := m } where
  fetchFirst := h.fetchFirst
  fetchSecond := h.fetchSecond
  lateFirst := by rw [lateAllowed_congr i s { s with schedule := m } rfl rfl rfl, h.lateFirst]
  lateSecond := by rw [lateAllowed_congr j s { s with schedule := m } rfl rfl rfl, h.lateSecond]
  names := h.names
  empty := h.empty

theorem fetch_enqueueLate (h : LatePair i j s) : fetch (enqueueLate i s) = .ok j :=
  (fetch_congr s.advance (enqueueLate i s) rfl rfl).trans h.fetchSecond

theorem lateAllowed_enqueueLate (h : LatePair i j s) : lateAllowed j (enqueueLate i s) = true :=
  (lateAllowed_congr j s (enqueueLate i s) rfl rfl rfl).trans h.lateSecond

/-- The first, executed late, stays outstanding before the second. -/
theorem takeMove_first_late (h : LatePair i j s) : takeMove .executeLate s = .next (enqueueLate i s) := by
  have hnext : nextMayOvertake (enqueueLate i s) = true :=
    (nextMayOvertake_iff _).mpr ⟨j, h.fetch_enqueueLate, h.lateAllowed_enqueueLate⟩
  rw [takeMove_issueLate i s h.fetchFirst h.lateFirst, issueLate, settleRegisters_nil i s h.empty, settleBeforeNext,
    if_pos hnext]

/-- The second overtakes the first, where no register keeps it back: its effect happens, then that of the first (20_memory.md
R68). -/
theorem runSteps_overtaking (h : LatePair i j s)
    (hfree : registerConflict j { name := i.accessor, effect := lateEffect i s } = false)
    (hs : s.schedule = [.executeLate, .execute, .perform i.accessor]) :
    ∃ s', runSteps 3 s = .next s' ∧ s'.pc = s.pc + 8 ∧
      SameRegisters (applyEffect (applyEffect s (lateEffect j s)) (lateEffect i s)) s' := by
  have h0 := h.withSchedule [.execute, .perform i.accessor]
  have hd : mustPrecede j (enqueueLate i { s with schedule := [.execute, .perform i.accessor] })
      { name := i.accessor, effect := lateEffect i s } = false := by
    rw [mustPrecede, hfree, h0.lateAllowed_enqueueLate]
    simp [h.names]
  obtain ⟨s', hrun, hpc, hregs⟩ := runSteps_overtake j _ _ h0.fetch_enqueueLate h0.lateAllowed_enqueueLate
    (by rw [enqueueLate_outstanding, h0.empty]; rfl) hd rfl
  refine ⟨s', (runSteps_succ 2 s _ _ _ (.inl hs) h0.takeMove_first_late).trans hrun, ?_, ?_⟩
  · rw [hpc, enqueueLate_pc, BitVec.add_assoc]
    rfl
  · have hsame : SameRegisters s (enqueueLate i { s with schedule := [.execute, .perform i.accessor] }) := ⟨rfl, rfl⟩
    rw [hsame.lateEffect_eq rfl] at hregs
    exact ((hsame.applyEffect _).applyEffect _).trans hregs

/-- The second, with the effect of the first in the registers and nothing outstanding. -/
theorem runSteps_second (h : LatePair i j s) (s1 : State) (hfurther : OneFurther s s1) (ho : s1.outstanding = [])
    (hregs : SameRegisters (applyEffect s (lateEffect i s)) s1) (hs : NextMove s1 .execute []) :
    ∃ s', runSteps 1 s1 = .next s' ∧ s'.pc = s.pc + 8 ∧ SameRegisters (bothInOrder i j s) s' := by
  obtain ⟨hel, -, -, hv⟩ := (lateAllowed_iff j s).mp h.lateSecond
  have hregs' := hregs.trans (SameRegisters.withSchedule s1 [])
  have hfurther' := hfurther.withSchedule []
  obtain ⟨s', hmove, hacc⟩ := takeMove_access_nil j { s1 with schedule := [] } (hfurther'.fetch_eq.trans h.fetchSecond)
    (hfurther.el.trans hel) ((hfurther'.verdictOf_eq j).trans hv) .execute (by simp) ho
  have hlast := hacc.registers
  rw [performAll_nil s' (hacc.atOnce rfl), performAll_nil { s1 with schedule := [] } ho,
    hregs'.lateEffect_eq (hfurther.cfg.trans (applyEffect_cfg s _).symm)] at hlast
  refine ⟨s', (runSteps_succ 0 s1 s' _ _ hs hmove).trans rfl, ?_, (hregs'.applyEffect _).trans hlast⟩
  rw [hacc.further.pc, hfurther.pc, BitVec.add_assoc]
  rfl

/-- Program order with the empty schedule (20_memory.md R69). -/
theorem runSteps_inOrder (h : LatePair i j s) (hs : s.schedule = []) :
    ∃ s', runSteps 2 s = .next s' ∧ s'.pc = s.pc + 8 ∧ SameRegisters (bothInOrder i j s) s' := by
  obtain ⟨hel, -, -, hv⟩ := (lateAllowed_iff i s).mp h.lateFirst
  obtain ⟨s1, hmove, hacc⟩ := takeMove_access_nil i s h.fetchFirst hel hv .execute (by simp) h.empty
  have hregs := hacc.registers
  rw [performAll_nil s1 (hacc.atOnce rfl), performAll_nil s h.empty] at hregs
  obtain ⟨s', hrun, hlast⟩ := h.runSteps_second s1 hacc.further (hacc.atOnce rfl) hregs
    (.inr ⟨hacc.schedule.trans hs, rfl, rfl⟩)
  rw [← withSchedule_nil s hs] at hmove
  exact ⟨s', (runSteps_succ 1 s s1 _ _ (.inr ⟨hs, rfl, rfl⟩) hmove).trans hrun, hlast⟩

/-- Program order with Synchronize between, the first executed late (20_memory.md R70). -/
theorem runSteps_synchronized (h : LatePair i j s) (hs : s.schedule = [.executeLate, .synchronize, .execute]) :
    ∃ s', runSteps 3 s = .next s' ∧ s'.pc = s.pc + 8 ∧ SameRegisters (bothInOrder i j s) s' := by
  have hfirst := (h.withSchedule [.synchronize, .execute]).takeMove_first_late
  have hregs : SameRegisters (applyEffect s (lateEffect i s))
      (synchronize (enqueueLate i { s with schedule := [.execute] })) := by
    have he := sameRegisters_performAll_enqueueLate i { s with schedule := [.execute] }
    rw [performAll_nil { s with schedule := [.execute] } h.empty] at he
    exact ((SameRegisters.withSchedule s [.execute]).applyEffect _).trans (he.trans ⟨rfl, rfl⟩)
  have hfurther : OneFurther s (synchronize (enqueueLate i { s with schedule := [.execute] })) := by
    constructor <;> simp [synchronize, performAll]
  obtain ⟨s', hrun, hlast⟩ := h.runSteps_second _ hfurther (performAll_outstanding _) hregs (.inl (performNames_schedule _ _))
  exact ⟨s', (runSteps_succ 2 s _ _ _ (.inl hs) hfirst).trans
    ((runSteps_succ 1 _ _ _ _ (.inl rfl) (takeMove_synchronize _)).trans hrun), hlast⟩

end LatePair

/-- Where R68 applies, accesses by its two names one after the other are such a pair. -/
theorem latePair_of_crossPair (i j : Instr) (s : State) (h : AtEl3Unordered s) (hi : i.wf = true) (hj : j.wf = true)
    (hc : crossPair i.accessor j.accessor = true) (hp : Pair s i j) : LatePair i j s := by
  simp only [crossPair, Bool.and_eq_true, bne_iff_ne] at hc
  obtain ⟨⟨hic, hjc⟩, hne⟩ := hc
  obtain ⟨hf, hf'⟩ := fetch_of_pair i j s hi hj h.aligned hp
  exact ⟨hf, hf', lateAllowed_atEl3 i s h hic, lateAllowed_atEl3 j s h hjc, hne.symm, h.empty⟩

end Sys2Proof.Proofs
end

section
/-! SUPPORT. The obligations about the order of two accesses at EL3: both orders of the pairs of R68, program order with
Synchronize between, and program order of every other pair (20_memory.md R68 to R70). -/

namespace Sys2Proof.Proofs

open Sys2Proof.Machine Sys2Proof.Safety

/-! ### Both orders of each pair -/

section
variable (a b : Accessor) (t u : Nat) (s : State)

/-- A write leaves its value for a read after it. -/
theorem bothInOrder_msr_mrs (hu : u < 31) :
    (bothInOrder (msr a t) (mrs b u) s).readX u = s.readX t &&& storageMask s.cfg ∧
      (bothInOrder (msr a t) (mrs b u) s).tcr2El1 = s.readX t &&& storageMask s.cfg := by
  simp [bothInOrder, State.writeX_readX_self, hu]

/-- Of two writes the second stays. -/
theorem bothInOrder_msr_msr :
    (bothInOrder (msr a t) (msr b u) s).tcr2El1 = s.readX u &&& storageMask s.cfg := by
  simp [bothInOrder]

/-- A read takes the value before a write after it. -/
theorem bothInOrder_mrs_msr (ht : t < 31) : (bothInOrder (mrs a t) (msr b u) s).readX t = s.tcr2El1 := by
  simp [bothInOrder, State.writeX_readX_self, ht]

end

/-- An outstanding write keeps back no register. -/
theorem registerConflict_write (i : Instr) (n : Accessor) (v : Word) :
    registerConflict i { name := n, effect := .write v } = false := rfl

/-- Settles O46: late, the read has its effect before the write; in program order after it. -/
theorem readMayOvertakeWrite : Obligations.ReadMayOvertakeWrite := by
  intro a b t u s hc ht hu h hp
  have hpair := latePair_of_crossPair (msr a t) (mrs b u) s h (msr_wf a t ht) (mrs_wf b u hu.le) (by simpa using hc) hp
  refine ⟨fun hs => ?_, fun hs => ?_⟩
  · obtain ⟨s', hrun, hpc, hregs⟩ := hpair.runSteps_overtaking (by rw [lateEffect_msr, registerConflict_write]) (by simpa using hs)
    refine ⟨s', hrun, ?_, ?_, hpc⟩
    · simp [hregs.readX, State.writeX_readX_self, hu]
    · simp [hregs.tcr2El1]
  · obtain ⟨s', hrun, hpc, hregs⟩ := hpair.runSteps_inOrder hs
    obtain ⟨hx, hw⟩ := bothInOrder_msr_mrs a b t u s hu
    exact ⟨s', hrun, (hregs.readX u).trans hx, hregs.tcr2El1.trans hw, hpc⟩

/-- Settles O47: late, the first write has its effect last. -/
theorem twoWritesMayLandInEitherOrder : Obligations.TwoWritesMayLandInEitherOrder := by
  intro a b t u s hc ht hu h hp
  have hpair := latePair_of_crossPair (msr a t) (msr b u) s h (msr_wf a t ht) (msr_wf b u hu) (by simpa using hc) hp
  refine ⟨fun hs => ?_, fun hs => ?_⟩
  · obtain ⟨s', hrun, -, hregs⟩ := hpair.runSteps_overtaking (by rw [lateEffect_msr, registerConflict_write]) (by simpa using hs)
    exact ⟨s', hrun, by simp [hregs.tcr2El1]⟩
  · obtain ⟨s', hrun, -, hregs⟩ := hpair.runSteps_inOrder hs
    exact ⟨s', hrun, hregs.tcr2El1.trans (bothInOrder_msr_msr a b t u s)⟩

/-- Settles O48: late, the read takes what the write leaves, since the two use different registers. -/
theorem writeMayOvertakeRead : Obligations.WriteMayOvertakeRead := by
  intro a b t u s hc ht hu htu h hp
  have hpair := latePair_of_crossPair (mrs a t) (msr b u) s h (mrs_wf a t ht.le) (msr_wf b u hu) (by simpa using hc) hp
  refine ⟨fun hs => ?_, fun hs => ?_⟩
  · have hfree : registerConflict (msr b u) { name := a, effect := .read t } = false := by
      simp [registerConflict, sameRegister, htu]
    obtain ⟨s', hrun, -, hregs⟩ := hpair.runSteps_overtaking (by simpa using hfree) (by simpa using hs)
    exact ⟨s', hrun, by simp [hregs.readX, State.writeX_readX_self, ht]⟩
  · obtain ⟨s', hrun, -, hregs⟩ := hpair.runSteps_inOrder hs
    exact ⟨s', hrun, (hregs.readX t).trans (bothInOrder_mrs_msr a b t u s ht)⟩

/-! ### Synchronize -/

/-- Where an access executed late is synchronized, all is as if it had its effect at once: the window it opened is closed. -/
theorem synchronize_enqueueLate (i : Instr) (s : State) (ho : s.outstanding = []) :
    synchronize (enqueueLate i s) = synchronize (applyEffect s (lateEffect i s)).advance := by
  have ho' : (applyEffect s (lateEffect i s)).advance.outstanding = [] := by
    rw [State.advance_outstanding, applyEffect_outstanding, ho]
  rw [synchronize, synchronize, performAll_nil _ ho', performAll_eq, enqueueLate_outstanding, ho]
  cases s
  cases ho
  generalize lateEffect i _ = e
  cases e with
  | read t => rfl
  | write v => rfl

/-- A step by Synchronize after a move: the settling between the two does not matter. -/
theorem runSteps_synchronize (s : State) (rest : List Move) (hs : s.schedule = .synchronize :: rest) :
    runSteps 1 (settleBeforeNext s) = .next { synchronize s with schedule := rest } := by
  have hnext : NextMove (settleBeforeNext s) .synchronize rest := .inl ((settleBeforeNext_schedule s).trans hs)
  rw [runSteps_succ 0 _ _ _ _ hnext (takeMove_synchronize _), synchronize_settled, synchronize, performAll_withSchedule]
  rfl

/-- With nothing outstanding an access of R68 leaves the same once synchronized, late or in program order. -/
theorem late_access_synchronized (i : Instr) (s : State) (rest : List Move) (hf : fetch s = .ok i)
    (hl : lateAllowed i s = true) (ho : s.outstanding = []) (hs : s.schedule = .synchronize :: rest) :
    ∃ s1 s2, takeMove .executeLate s = .next s1 ∧ takeMove .execute s = .next s2 ∧ runSteps 1 s1 = runSteps 1 s2 := by
  obtain ⟨hel, -, -, hv⟩ := (lateAllowed_iff i s).mp hl
  have ho' : (applyEffect s (lateEffect i s)).advance.outstanding = [] := by
    rw [State.advance_outstanding, applyEffect_outstanding, ho]
  refine ⟨settleBeforeNext (enqueueLate i s), settleBeforeNext (applyEffect s (lateEffect i s)).advance, ?_, ?_, ?_⟩
  · rw [takeMove_issueLate i s hf hl, issueLate, settleRegisters_nil i s ho]
  · rw [takeMove_inOrder_nil .execute i s (.inl rfl) hf ho, exec_el3 i s hel hv, settleBeforeNext_nil _ ho']
  · rw [runSteps_synchronize (enqueueLate i s) rest hs,
      runSteps_synchronize (applyEffect s (lateEffect i s)).advance rest ((applyEffect_schedule s _).trans hs),
      synchronize_enqueueLate i s ho]

/-- With nothing outstanding before, both moves of the PE leave the same once synchronized (20_memory.md R70). -/
theorem runSteps_late_synchronize (s : State) (rest : List Move) (ho : s.outstanding = []) :
    runSteps 2 { s with schedule := .executeLate :: .synchronize :: rest } =
      runSteps 2 { s with schedule := .execute :: .synchronize :: rest } := by
  by_cases hlate : nextMayOvertake { s with schedule := .synchronize :: rest } = true
  · obtain ⟨i, hf, hl⟩ := (nextMayOvertake_iff _).mp hlate
    obtain ⟨s1, s2, h1, h2, heq⟩ := late_access_synchronized i _ rest hf hl ho rfl
    rw [runSteps_succ 1 { s with schedule := .executeLate :: .synchronize :: rest } s1 _ _ (.inl rfl) h1,
      runSteps_succ 1 { s with schedule := .execute :: .synchronize :: rest } s2 _ _ (.inl rfl) h2, heq]
  · have hsame := takeMove_executeLate_eq_execute { s with schedule := .synchronize :: rest } fun i hf => by
      rw [Bool.eq_false_iff]
      exact fun hl => hlate ((nextMayOvertake_iff _).mpr ⟨i, hf, hl⟩)
    rw [runSteps, runSteps, step_of_nextMove _ .executeLate _ (.inl rfl), step_of_nextMove _ .execute _ (.inl rfl)]
    simp only [hsame]

/-- Settles O49. -/
theorem synchronizeRestoresOrder : Obligations.SynchronizeRestoresOrder := by
  refine ⟨fun s rest hs => ?_, runSteps_late_synchronize, fun a b t u s hc ht hu h hs => ?_⟩
  · refine ⟨_, (step_of_nextMove s _ rest (.inl hs)).trans (takeMove_synchronize _), performAll_outstanding _, ?_⟩
    rw [synchronize, performAll_eq]
  · refine ⟨fun hp hu' => ?_, fun hp => ?_, fun hp ht' => ?_⟩
    · have hpair := latePair_of_crossPair (msr a t) (mrs b u) s h (msr_wf a t ht) (mrs_wf b u hu) (by simpa using hc) hp
      obtain ⟨s', hrun, -, hregs⟩ := hpair.runSteps_synchronized hs
      exact ⟨s', hrun, (hregs.readX u).trans (bothInOrder_msr_mrs a b t u s hu').1⟩
    · have hpair := latePair_of_crossPair (msr a t) (msr b u) s h (msr_wf a t ht) (msr_wf b u hu) (by simpa using hc) hp
      obtain ⟨s', hrun, -, hregs⟩ := hpair.runSteps_synchronized hs
      exact ⟨s', hrun, hregs.tcr2El1.trans (bothInOrder_msr_msr a b t u s)⟩
    · have hpair := latePair_of_crossPair (mrs a t) (msr b u) s h (mrs_wf a t ht) (msr_wf b u hu) (by simpa using hc) hp
      obtain ⟨s', hrun, -, hregs⟩ := hpair.runSteps_synchronized hs
      exact ⟨s', hrun, (hregs.readX t).trans (bothInOrder_mrs_msr a b t u s ht')⟩

/-! ### Every other pair -/

/-- An access by one name must follow an outstanding one by another, where the two names are no pair of R68 (20_memory.md R68,
R69). -/
theorem mustPrecede_of_not_crossPair (i : Instr) (s : State) (d : OutstandingAccess) (hd : crossNamed d.name = true)
    (hc : crossPair d.name i.accessor = false) : mustPrecede i s d = true := by
  by_cases hl : lateAllowed i s = true
  · obtain ⟨-, -, hi, -⟩ := (lateAllowed_iff i s).mp hl
    have hname : d.name = i.accessor := by simpa [crossPair, hd, hi] using hc
    simp [mustPrecede, hname]
  · simp [mustPrecede, hl]

/-- What an MSR by `a` that stores `v` leaves, whichever move executed it: the register holds `v` once all effects have happened,
and at most that write is outstanding, if R68 speaks of `a`. -/
structure WriteMade (a : Accessor) (v : Word) (s : State) : Prop where
  value : (performAll s).tcr2El1 = v
  outstanding : ∀ d ∈ s.outstanding, crossNamed a = true ∧ d = { name := a, effect := .write v }

/-- The MSR of a pair, where R68 applies. -/
theorem Accessed.writeMade {m : Move} {a : Accessor} {t : Nat} {s s' : State} (h : Accessed m (msr a t) s s')
    (ho : s.outstanding = []) : WriteMade a (s.readX t &&& storageMask s.cfg) s' := by
  obtain ⟨-, -, hregs, -, hout⟩ := h
  rw [lateEffect_msr] at hregs hout
  refine ⟨hregs.tcr2El1, fun d hd => ?_⟩
  obtain hd | ⟨hl, hd⟩ := hout d hd
  · simp [ho] at hd
  · obtain ⟨-, -, hcross, -⟩ := (lateAllowed_iff _ _).mp hl
    rw [msr_accessor] at hcross hd
    exact ⟨hcross, hd⟩

/-- An MRS by a name that is no pair of R68 with the write's follows it, by either move of the PE. -/
theorem WriteMade.takeMove_mrs {a b : Accessor} {u : Nat} {v : Word} {s : State} (h : WriteMade a v s)
    (hc : crossPair a b = false) (hf : fetch s = .ok (mrs b u)) (hl : s.el = .el3)
    (hv : verdictOf (mrs b u) s = .go .tcr2El1) (n : Move) (hn : n ∈ [.execute, .executeLate]) :
    ∃ s', takeMove n s = .next s' ∧ Accessed n (mrs b u) s s' := by
  refine takeMove_access (mrs b u) s hf hl hv n hn (fun d hd => ?_) (fun d hd => ?_) (by simp)
  · obtain ⟨hcross, rfl⟩ := h.outstanding d hd
    exact mustPrecede_of_not_crossPair _ s _ hcross (by simpa using hc)
  · obtain ⟨-, rfl⟩ := h.outstanding d hd
    exact registerConflict_write _ a v

/-- Settles O50: by either move the write is made, and the read follows it. -/
theorem sameNameKeepsProgramOrder : Obligations.SameNameKeepsProgramOrder := by
  intro a b t u s m n hc hsr ht hu h hp hm hn hs
  obtain ⟨hf, hf'⟩ := fetch_of_pair (msr a t) (mrs b u) s (msr_wf a t ht) (mrs_wf b u hu.le) h.aligned hp
  have hv := verdictOf_atEl3 (msr a t) s h (by simpa using fun ha => hsr (.inl ha))
  have hv' := verdictOf_atEl3 (mrs b u) s h (by simpa using fun hb => hsr (.inr hb))
  obtain ⟨s1, hmove, hfirst⟩ := takeMove_access_nil (msr a t) { s with schedule := [n] } hf h.el
    ((verdictOf_congr (msr a t) s { s with schedule := [n] } rfl rfl rfl).trans hv) m hm h.empty
  have hmade := hfirst.writeMade h.empty
  have hmade' : WriteMade a (s.readX t &&& storageMask s.cfg) { s1 with schedule := [] } :=
    ⟨by rw [performAll_withSchedule]; exact hmade.value, hmade.outstanding⟩
  have hfurther := hfirst.further.of_withSchedule.withSchedule []
  obtain ⟨s2, hmove', hsecond⟩ := hmade'.takeMove_mrs hc (hfurther.fetch_eq.trans hf') (hfurther.el.trans h.el)
    ((hfurther.verdictOf_eq (mrs b u)).trans hv') n hn
  have hregs := hsecond.registers
  rw [lateEffect_mrs] at hregs
  have hread : (performAll s2).readX u = s.readX t &&& storageMask s.cfg := by
    rw [hregs.readX, applyEffect_read, State.writeX_readX_self, if_pos hu, hmade'.value]
  refine ⟨s2, ?_, hread, hregs.tcr2El1.trans hmade'.value, fun hnow => ?_⟩
  · rw [runSteps_succ 1 s s1 m [n] (.inl hs) hmove, runSteps_succ 0 s1 s2 n [] (.inl hfirst.schedule) hmove']
    rfl
  · rwa [performAll_nil s2 (hsecond.atOnce hnow)] at hread

end Sys2Proof.Proofs
end

section
/-! SUPPORT. The decoder and the encoder as one relation: a word decodes to an instruction exactly when it is the encoding of that
well-formed instruction, that is, when its nine fields are the instruction's; and what the fetch answers for a word of no row, a
misaligned pc and missing text (30_encoding.md R80 to R84, R87, R90; 93_implementation_defined.md I6). -/

namespace Sys2Proof.Machine

/-! ### The rows -/

section
variable (a : Accessor) (d : Direction) (t : Nat)

@[simp] theorem makeInstr_accessor : (makeInstr a d t).accessor = a := by cases a <;> cases d <;> rfl

@[simp] theorem makeInstr_direction : (makeInstr a d t).direction = d := by cases a <;> cases d <;> rfl

@[simp] theorem makeInstr_reg : (makeInstr a d t).reg = t := by cases a <;> cases d <;> rfl

end

theorem rtOf_lt (w : InstrWord) : rtOf w < 32 := (w.extractLsb' 0 5).isLt

theorem rtMask_getLsbD (k : Nat) (hk : k < 32) : rtMask.getLsbD k = decide (5 ≤ k) := by
  interval_cases k <;> rfl

/-- The mask leaves out Rt and nothing else: the bits under it and Rt make up the word (30_encoding.md R83, R84). -/
theorem eq_of_fixedBits_of_rtOf (w w' : InstrWord) (hbits : w &&& rtMask = w' &&& rtMask) (hrt : rtOf w = rtOf w') :
    w = w' := by
  refine BitVec.eq_of_getLsbD_eq fun k hk => ?_
  by_cases h5 : k < 5
  · have hlow : w.extractLsb' 0 5 = w'.extractLsb' 0 5 := BitVec.eq_of_toNat_eq hrt
    simpa [h5] using congrArg (BitVec.getLsbD · k) hlow
  · simpa [rtMask_getLsbD k hk, Nat.le_of_not_lt h5] using congrArg (BitVec.getLsbD · k) hbits

/-! ### One word -/

/-- A word that decodes matches its instruction's row and carries its operand as Rt (30_encoding.md R84, R90). -/
theorem fixedBits_of_decodeWord (w : InstrWord) (i : Instr) (h : decodeWord w = .ok i) :
    w &&& rtMask = matchWord i.accessor i.direction ∧ rtOf w = i.reg := by
  unfold decodeWord at h
  split at h
  · next r hr =>
    cases h
    simpa using List.find?_some hr
  · cases h

/-- No two words decode to one instruction. -/
theorem decodeWord_inj (w w' : InstrWord) (i : Instr) (h : decodeWord w = .ok i) (h' : decodeWord w' = .ok i) : w = w' := by
  obtain ⟨hbits, hrt⟩ := fixedBits_of_decodeWord w i h
  obtain ⟨hbits', hrt'⟩ := fixedBits_of_decodeWord w' i h'
  exact eq_of_fixedBits_of_rtOf w w' (hbits.trans hbits'.symm) (hrt.trans hrt'.symm)

/-- Decoding and encoding are each other's converse on the well-formed instructions (30_encoding.md R84, R87, R90). -/
theorem decodeWord_eq_ok_iff (w : InstrWord) (i : Instr) : decodeWord w = .ok i ↔ i.wf = true ∧ encode i = w := by
  constructor
  · intro h
    have hwf : i.wf = true := by
      obtain ⟨-, hrt⟩ := fixedBits_of_decodeWord w i h
      simpa [Instr.wf, ← hrt] using Nat.le_of_lt_succ (rtOf_lt w)
    exact ⟨hwf, decodeWord_inj _ _ i (Proofs.decodeWord_encode i hwf) h⟩
  · rintro ⟨hwf, rfl⟩
    exact Proofs.decodeWord_encode i hwf

/-- A word of no row is "not in this spec" (30_encoding.md R87). -/
theorem decodeWord_of_no_row (w : InstrWord) (h : ∀ a d, w &&& rtMask ≠ matchWord a d) :
    decodeWord w = .error (.notInThisSpec w) := by
  have hnone : (opcodeRows.find? fun r => w &&& rtMask == matchWord r.1 r.2) = none :=
    List.find?_eq_none.mpr fun r _ => by simpa using h r.1 r.2
  rw [decodeWord, hnone]

/-! ### The four bytes of a word -/

/-- The bytes of a word decode as the word does, and what follows them is left over (30_encoding.md R82, R90). -/
theorem decodeBytes_bytesOfWord (w : InstrWord) (rest : List Byte) :
    decodeBytes (bytesOfWord w ++ rest) = (decodeWord w).map fun i => (i, rest) := by
  simp only [bytesOfWord, List.cons_append, List.nil_append, decodeBytes, wordOfBytes_wordByte]
  cases decodeWord w <;> rfl

/-! ### The fields of a word -/

/-- A stretch of bits is two fields side by side exactly when its upper part is the one and its lower part the other. -/
theorem extractLsb'_eq_append_iff {l m n : Nat} (w : BitVec l) (k : Nat) (x : BitVec m) (y : BitVec n) :
    w.extractLsb' k (m + n) = x ++ y ↔ w.extractLsb' (k + n) m = x ∧ w.extractLsb' k n = y := by
  rw [← BitVec.extractLsb'_append_extractLsb'_eq_extractLsb' (start₂ := k + n) rfl]
  constructor
  · intro h
    have hx := congrArg (BitVec.extractLsb' n m) h
    have hy := congrArg (BitVec.extractLsb' 0 n) h
    rw [BitVec.extractLsb'_append_eq_left, BitVec.extractLsb'_append_eq_left] at hx
    rw [BitVec.extractLsb'_append_eq_right, BitVec.extractLsb'_append_eq_right] at hy
    exact ⟨hx, hy⟩
  · rintro ⟨rfl, rfl⟩
    rfl

/-- A word is the encoding of an instruction exactly when its nine fields are the instruction's (30_encoding.md R81, R82). -/
theorem eq_encode_iff (w : InstrWord) (i : Instr) :
    w = encode i ↔
      w.extractLsb' 22 10 = 0b1101010100#10 ∧
      w.extractLsb' 21 1 = directionBit i.direction ∧
      w.extractLsb' 20 1 = 1#1 ∧
      w.extractLsb' 19 1 = (sysRegEncoding i.accessor).op0.extractLsb' 0 1 ∧
      w.extractLsb' 16 3 = (sysRegEncoding i.accessor).op1 ∧
      w.extractLsb' 12 4 = (sysRegEncoding i.accessor).crn ∧
      w.extractLsb' 8 4 = (sysRegEncoding i.accessor).crm ∧
      w.extractLsb' 5 3 = (sysRegEncoding i.accessor).op2 ∧
      w.extractLsb' 0 5 = BitVec.ofNat 5 i.reg := by
  have hw : w.extractLsb' 0 (10 + 1 + 1 + 1 + 3 + 4 + 4 + 3 + 5) = w := BitVec.extractLsb'_eq_self
  rw [← hw.congr_left, encode]
  iterate 8 rw [extractLsb'_eq_append_iff] -- one field split off the low end at a time
  simp only [and_assoc, Nat.zero_add, Nat.reduceAdd]

/-- Rt is a register number exactly when the number fits the field and the field holds it (30_encoding.md R83). -/
theorem rtOf_eq_iff (w : InstrWord) (t : Nat) : rtOf w = t ↔ t ≤ 31 ∧ w.extractLsb' 0 5 = BitVec.ofNat 5 t := by
  constructor
  · rintro rfl
    exact ⟨Nat.le_of_lt_succ (rtOf_lt w), by rw [rtOf, BitVec.ofNat_toNat, BitVec.setWidth_eq]⟩
  · rintro ⟨ht, hw⟩
    rw [rtOf, hw, BitVec.toNat_ofNat, Nat.mod_eq_of_lt (by omega)]

/-! ### What the fetch refuses -/

section
variable (s : State)

theorem fetch_of_misaligned (ha : s.pcAligned = false) : fetch s = .error (.misalignedFetch s.pc) := by
  simp [fetch, ha]

/-- With one of the four bytes missing there is no word to fetch (93_implementation_defined.md I6). -/
theorem fetch_of_missing_byte (ha : s.pcAligned = true) (k : Nat) (hk : k < 4)
    (hm : s.text.holds (byteAddr s.pc k) = false) : fetch s = .error (.fetchOutsideText s.pc) := by
  have hnone : lookupCell s.text (byteAddr s.pc k) = none := by simpa [Text.holds] using hm
  simp only [fetch, ha]
  split
  · contradiction
  · split
    · next h0 h1 h2 h3 =>
      have hsome : ∃ b, lookupCell s.text (byteAddr s.pc k) = some b := by
        interval_cases k
        exacts [⟨_, h0⟩, ⟨_, h1⟩, ⟨_, h2⟩, ⟨_, h3⟩]
      simp [hnone] at hsome
    · rfl

/-- A word of no row is refused by the fetch (30_encoding.md R87). -/
theorem fetch_of_refused_word (w : InstrWord) (ha : s.pcAligned = true)
    (ht : ∀ k, k < 4 → lookupCell s.text (byteAddr s.pc k) = some (wordByte w k))
    (hw : decodeWord w = .error (.notInThisSpec w)) : fetch s = .error (.notInThisSpec w) := by
  simp only [fetch, ha, ht 0 (by decide), ht 1 (by decide), ht 2 (by decide), ht 3 (by decide), decodeBytes,
    wordOfBytes_wordByte, hw]
  rfl

/-- With the PE next to move, what the fetch refuses the step refuses (log 27). -/
theorem step_of_fetch_error (hs : s.schedule = []) (r : Refusal) (hf : fetch s = .error r) : step s = .refused r := by
  rw [step_of_nextMove s .execute [] (.inr ⟨hs, rfl, rfl⟩), withSchedule_nil s hs, takeMove, applyMove, executeNow, hf]
  rfl

end

end Sys2Proof.Machine
end

section
/-! SUPPORT. The obligations about the encoding: decoder and encoder (30_encoding.md R80 to R84, R87, R90), the fetches that are
refused (R82, R87; 93_implementation_defined.md I6), and the accesses that no parameter set implements (R85, R86). -/

namespace Sys2Proof.Proofs

open Sys2Proof.Machine Sys2Proof.Safety

/-! ### Decoder and encoder -/

/-- Settles O1: the bytes decode as their word does, and the word of a well-formed instruction decodes to it. -/
theorem encodedInstructionDecodes : Obligations.EncodedInstructionDecodes := by
  intro i rest hw
  rw [encodeBytes, decodeBytes_bytesOfWord, decodeWord_encode i hw]
  rfl

/-- Settles O2: only one word decodes to an instruction. -/
theorem decodedWordIsTheEncoding : Obligations.DecodedWordIsTheEncoding :=
  fun w i h => (decodeWord_eq_ok_iff w i).mp h

/-- Settles O3: the words that decode to an instruction are its encoding, read field by field. -/
theorem decoderReadsTheFields : Obligations.DecoderReadsTheFields := by
  intro w a d t
  have hdecode : decodeWord w = .ok (makeInstr a d t) ↔ t ≤ 31 ∧ w = encode (makeInstr a d t) := by
    rw [decodeWord_eq_ok_iff, Instr.wf, makeInstr_reg, decide_eq_true_eq, eq_comm (a := w)]
  have hrt : (w.extractLsb' 0 5).toNat = t ↔ t ≤ 31 ∧ w.extractLsb' 0 5 = BitVec.ofNat 5 t := rtOf_eq_iff w t
  rw [hdecode, eq_encode_iff, makeInstr_accessor, makeInstr_direction, makeInstr_reg, hrt]
  tauto

/-- Settles O4: the decoder run on the seven words. -/
theorem sampleWordsDecode : Obligations.SampleWordsDecode :=
  ⟨rfl, rfl, rfl, rfl, rfl, rfl, rfl⟩

/-! ### Refused fetches -/

/-- Settles O5: a word of no row is fetched and refused. -/
theorem otherWordsAreRefused : Obligations.OtherWordsAreRefused := by
  intro s w hs ha ht hrow
  exact step_of_fetch_error s hs _ (fetch_of_refused_word s w ha ht (decodeWord_of_no_row w hrow))

/-- Settles O6: the fetch names its two stops, and the step is the fetch's refusal. -/
theorem fetchStopsByName : Obligations.FetchStopsByName := by
  intro s hs
  refine ⟨fun ha => ?_, fun ha hmissing => ?_⟩
  · exact step_of_fetch_error s hs _ (fetch_of_misaligned s ha)
  · obtain ⟨k, hk, hm⟩ := hmissing
    exact step_of_fetch_error s hs _ (fetch_of_missing_byte s ha k hk hm)

/-! ### Accesses that are not implemented -/

/-- An access without its register and accessor condition ends in Undefined (30_encoding.md R85, R86). -/
theorem exec_of_not_implemented (i : Instr) (s : State) (h : ¬ Implemented s.cfg i) :
    exec i s = .fault (.undefined s.pc (encode i)) :=
  exec_of_undefined i s (verdictOf_of_not_implemented i s h)

/-- Settles O28: the register condition is part of every instruction's. -/
theorem unimplementedRegisterIsUndefined : Obligations.UnimplementedRegisterIsUndefined := by
  intro i s h
  refine exec_of_not_implemented i s fun ⟨htcr2, haa64, _⟩ => ?_
  obtain h | h := h
  · exact absurd htcr2 (by simp [h])
  · exact absurd haa64 (by simp [h])

/-- Settles O29: so is the accessor condition of its name. -/
theorem unallocatedAccessorIsUndefined : Obligations.UnallocatedAccessorIsUndefined := by
  intro i s h
  refine exec_of_not_implemented i s fun ⟨_, _, hvhe, hsrmask⟩ => ?_
  obtain ⟨ha, h⟩ | ⟨ha, h⟩ := h
  · exact absurd (hvhe ha) (by simp [h])
  · exact absurd (hsrmask ha) (by simp [h])

end Sys2Proof.Proofs
end

section
/-! SUPPORT. The decision table of the name TCR2_EL1 against its chain of tests (40_access_tcr2_el1.md R101 to R103). -/

namespace Sys2Proof.Proofs

open Sys2Proof.Machine

/-! ### Rows and tests -/

theorem firstRow_cons (b : Bool) (v : Verdict) (rs : List TableRow) :
    firstRow ({ holds := b, outcome := v } :: rs) = if b then some v else firstRow rs :=
  rfl

/-- Two rows of a table say what a chain says by a test inside a test. -/
theorem nested_test_eq_two_rows {α : Type} (a b : Bool) (x y z : α) :
    (if a then (if b then x else y) else z) = if a && b then x else if a then y else z := by
  cases a <;> cases b <;> rfl

/-- The test at high priority, as the tables write it: `S0` first (40 R103 rows 3 and 11). -/
theorem priorityTest_eq (s : State) :
    (s.cfg.haveEL3 && s.inputs.el3SDDUndefPriority && !s.inputs.scrTCR2En) = (tableS0 s && s.inputs.el3SDDUndefPriority) :=
  Bool.and_right_comm ..

/-- The tests of `SCR_EL3.TCR2En` at EL2 are three rows (40 R103 rows 11 to 13; 41 R113 rows 7 to 9). -/
theorem el3Gate_eq_rows (s : State) (v : Verdict) :
    el3Gate s v =
      if tableS0 s && s.inputs.el3SDDUndefPriority then .undefined
      else if tableS0 s && s.inputs.el3SDDUndef then .undefined
      else if tableS0 s then .trapEl3
      else v := by
  rw [el3Gate, priorityTest_eq, nested_test_eq_two_rows]
  rfl

/-- The shared chain at EL1 is eight rows (40 R103 rows 3 to 10). -/
theorem verdictTcr2_el1_eq_rows (s : State) (vm ft : Bool) (hp : s.cfg.registerPresent = true) (hl : s.el = .el1) :
    verdictTcr2 s vm ft =
      if tableS0 s && s.inputs.el3SDDUndefPriority then .undefined
      else if s.inputs.el2Enabled && vm then .trapEl2
      else if s.inputs.el2Enabled && ft then .trapEl2
      else if s.inputs.el2Enabled && (!s.inputs.isHCRXEL2Enabled || !s.inputs.hcrxTCR2En) then .trapEl2
      else if tableS0 s && s.inputs.el3SDDUndef then .undefined
      else if tableS0 s then .trapEl3
      else if s.inputs.nvx == 0b111#3 then .go .nvMem
      else .go .tcr2El1 := by
  rw [verdictTcr2, hp, hl, priorityTest_eq, nested_test_eq_two_rows]
  rfl

/-! ### The table -/

/-- The table of R103 with `ft` for the fine-grained test of row 5, the one test in which the two names of the shared chain
differ (40 R103, 42 R123). -/
def sharedTable (s : State) (vm ft : Bool) : List TableRow :=
  (tableTcr2El1 s vm false).set 4 { holds := s.el == .el1 && (s.inputs.el2Enabled && ft), outcome := .trapEl2 }

theorem tableTcr2El1_eq_sharedTable (s : State) (T G : Bool) :
    tableTcr2El1 s T G = sharedTable s T (fineTrapTcr2El1 s G) := by
  simp only [tableTcr2El1, sharedTable, fineTrapTcr2El1, Bool.and_assoc, List.set_cons_succ, List.set_cons_zero]

/-- The shared chain is the first row that holds: at each level the rows of the other levels drop out, and those that stay are
its tests in order (40 R103). -/
theorem firstRow_sharedTable (s : State) (vm ft : Bool) :
    firstRow (sharedTable s vm ft) = some (verdictTcr2 s vm ft) := by
  have hpresent : (s.cfg.featTCR2 && s.cfg.featAA64) = s.cfg.registerPresent := rfl
  simp only [sharedTable, tableTcr2El1, hpresent, List.set_cons_succ, List.set_cons_zero, firstRow_cons]
  cases hp : s.cfg.registerPresent with
  | false => simp [verdictTcr2, hp]
  | true =>
    cases hl : s.el with
    | el0 | el3 => simp [verdictTcr2, hp, hl]
    | el1 => simp [verdictTcr2_el1_eq_rows s vm ft hp hl, apply_ite some]
    | el2 => simp [verdictTcr2, hp, hl, el3Gate_eq_rows, apply_ite some]

/-- The chain of the name TCR2_EL1 is its table (40 R101 to R103). -/
theorem firstRow_tableTcr2El1 (s : State) (T G : Bool) :
    firstRow (tableTcr2El1 s T G) = some (verdictTcr2 s T (fineTrapTcr2El1 s G)) := by
  rw [tableTcr2El1_eq_sharedTable, firstRow_sharedTable]

/-- A write by the name TCR2_EL1 is masked at EL1 alone, since ROMask() is 0 elsewhere (40 R103; 10_state.md R44, R45). -/
theorem roMask_eq_ite_el1 (s : State) : roMask s = if s.el = .el1 then roMask s else 0 := by
  split
  · rfl
  · next h => exact roMask_of_not_el1 s h

/-- Settles O25: each direction ends as its chain's verdict says, and that verdict is the first row's. -/
theorem nameTcr2El1FollowsItsTable : Obligations.NameTcr2El1FollowsItsTable := by
  intro t s
  refine ⟨⟨verdictMrsTcr2El1 s, firstRow_tableTcr2El1 .., rfl⟩, ⟨verdictMsrTcr2El1 s, firstRow_tableTcr2El1 .., ?_⟩⟩
  rw [← roMask_eq_ite_el1]
  rfl

end Sys2Proof.Proofs
end

section
/-! SUPPORT. The decision table of the name TCR2_EL12 against its chain of tests (41_access_tcr2_el12.md R111 to R113). -/

namespace Sys2Proof.Proofs

open Sys2Proof.Machine

/-- The chain of the name TCR2_EL12 is the first row that holds: at each level the rows of the other levels drop out, and those
that stay are its tests in order; `NVx[0] == 1` of row 4 is the chain's test of the bit (41 R111 to R113). -/
theorem firstRow_tableTcr2El12 (s : State) : firstRow (tableTcr2El12 s) = some (verdictTcr2El12 s) := by
  have hpresent : (s.cfg.featTCR2 && s.cfg.featAA64) = s.cfg.registerPresent := rfl
  simp only [tableTcr2El12, hpresent, ← BitVec.getLsbD_eq_extractLsb', firstRow_cons]
  cases hv : s.cfg.featVHE with
  | false => simp [verdictTcr2El12, hv]
  | true =>
    cases hp : s.cfg.registerPresent with
    | false => simp [verdictTcr2El12, hp]
    | true =>
      cases hl : s.el with
      | el0 => simp [verdictTcr2El12, hv, hp, hl]
      | el1 => simp [verdictTcr2El12, hv, hp, hl, apply_ite some]
      | el2 =>
        cases hh : s.inputs.el2IsInHost with
        | false => simp [verdictTcr2El12, hv, hp, hl, hh]
        | true => simp [verdictTcr2El12, hv, hp, hl, hh, el3Gate_eq_rows, apply_ite some]
      | el3 => simp [verdictTcr2El12, hv, hp, hl, apply_ite some]

/-- Settles O26: both directions have the one chain, whose verdict is the first row's. -/
theorem nameTcr2El12FollowsItsTable : Obligations.NameTcr2El12FollowsItsTable := by
  intro t s
  exact ⟨verdictTcr2El12 s, firstRow_tableTcr2El12 s, rfl, rfl⟩

end Sys2Proof.Proofs
end

section
/-! SUPPORT. The decision table of the name TCR2ALIAS_EL1 against its chain of tests (42_access_tcr2alias_el1.md R121 to
R123). -/

namespace Sys2Proof.Proofs

open Sys2Proof.Machine

/-- The table of the alias is the row of its accessor condition above the shared table, under the alias's own fine-grained
test (42 R123 against 40 R103). -/
theorem tableTcr2Alias_eq_cons_sharedTable (s : State) (T N : Bool) :
    tableTcr2Alias s T N =
      { holds := !s.cfg.featSRMASK, outcome := .undefined } :: sharedTable s T (fineTrapTcr2Alias s N) := by
  simp only [tableTcr2Alias, sharedTable, tableTcr2El1, fineTrapTcr2Alias, Bool.and_assoc, List.set_cons_succ,
    List.set_cons_zero]

/-- The chain of the name TCR2ALIAS_EL1 is its table: the accessor condition, then the shared chain (42 R121 to R123). -/
theorem firstRow_tableTcr2Alias (s : State) (T N : Bool) :
    firstRow (tableTcr2Alias s T N) =
      some (if !s.cfg.featSRMASK then .undefined else verdictTcr2 s T (fineTrapTcr2Alias s N)) := by
  rw [tableTcr2Alias_eq_cons_sharedTable, firstRow_cons, firstRow_sharedTable, apply_ite some]

/-- A write by the name TCR2ALIAS_EL1 is masked at EL1 alone, and there under AliasWriteMasked (42 R123; 10_state.md R44,
R45). -/
theorem aliasMask_eq_ite_el1 (s : State) :
    (if s.cfg.aliasWriteMasked then roMask s else 0) =
      if s.el = .el1 ∧ s.cfg.aliasWriteMasked = true then roMask s else 0 := by
  by_cases hl : s.el = .el1
  · simp only [hl, true_and]
  · simp only [hl, false_and, roMask_of_not_el1 s hl, ite_self]

/-- Settles O27: each direction ends as its chain's verdict says, and that verdict is the first row's. -/
theorem nameTcr2AliasFollowsItsTable : Obligations.NameTcr2AliasFollowsItsTable := by
  intro t s
  refine ⟨⟨verdictMrsTcr2AliasEl1 s, firstRow_tableTcr2Alias .., rfl⟩,
    ⟨verdictMsrTcr2AliasEl1 s, firstRow_tableTcr2Alias .., ?_⟩⟩
  rw [← aliasMask_eq_ite_el1]
  rfl

end Sys2Proof.Proofs
end

section
/-! SUPPORT. The faults of an access against what its chain decides (60_exceptions.md R131, R132, R139; 20_memory.md R65). -/

namespace Sys2Proof.Proofs

open Sys2Proof.Machine Sys2Proof.Safety

section
variable (i : Instr) (s : State)

/-- An access that its chain sends somewhere has one fault left, the one of an NVMem byte that is not admitted (20_memory.md
R65). -/
theorem fault_of_go (p : Place) (f : Fault) (hv : verdictOf i s = .go p) (hf : exec i s = .fault f) :
    f = .nvMemNotAdmitted s.pc (encode i) := by
  cases p with
  | tcr2El1 =>
    obtain ⟨s', he, -⟩ := exec_of_go_tcr2El1 i s hv
    cases he.symm.trans hf
  | tcr2El2 =>
    cases hd : i.direction with
    | read =>
      obtain ⟨s', he, -⟩ := mrs_reads_tcr2El2 i s hd hv
      cases he.symm.trans hf
    | write =>
      obtain ⟨s', he, -⟩ := msr_writes_tcr2El2 i s hd hv
      cases he.symm.trans hf
  | nvMem =>
    obtain ⟨-, -, s', v, he, -⟩ | ⟨-, -, -, s', he, -⟩ | ⟨-, he | he | he⟩ :=
      exec_nvMem_cases i s ((verdictOf_eq_go_nvMem_iff i s).mp hv)
    · cases he.symm.trans hf
    · cases he.symm.trans hf
    · cases he.symm.trans hf
    · cases he.symm.trans hf
      rfl
    · cases he.symm.trans hf

/-- Every fault of an access, with what its chain decides: the three that the chain raises, and the one of NVMem. -/
theorem exec_fault (f : Fault) (hf : exec i s = .fault f) :
    (verdictOf i s = .undefined ∧ f = .undefined s.pc (encode i)) ∨
      (verdictOf i s = .trapEl2 ∧ f = .trap .el2 0x18 s.pc (encode i)) ∨
      (verdictOf i s = .trapEl3 ∧ f = .trap .el3 0x18 s.pc (encode i)) ∨
      f = .nvMemNotAdmitted s.pc (encode i) := by
  cases hv : verdictOf i s with
  | undefined =>
    cases (exec_of_undefined i s hv).symm.trans hf
    exact .inl ⟨rfl, rfl⟩
  | trapEl2 =>
    cases (exec_of_trapEl2 i s hv).symm.trans hf
    exact .inr (.inl ⟨rfl, rfl⟩)
  | trapEl3 =>
    cases (exec_of_trapEl3 i s hv).symm.trans hf
    exact .inr (.inr (.inl ⟨rfl, rfl⟩))
  | go p => exact .inr (.inr (.inr (fault_of_go i s p f hv hf)))

/-! Each of the three that the chain raises ends exactly the accesses for which the chain decides it. -/

theorem exec_eq_undefined_iff : exec i s = .fault (.undefined s.pc (encode i)) ↔ verdictOf i s = .undefined :=
  ⟨fun h => by simpa using exec_fault i s _ h, exec_of_undefined i s⟩

theorem exec_eq_trapEl2_iff : exec i s = .fault (.trap .el2 0x18 s.pc (encode i)) ↔ verdictOf i s = .trapEl2 :=
  ⟨fun h => by simpa using exec_fault i s _ h, exec_of_trapEl2 i s⟩

theorem exec_eq_trapEl3_iff : exec i s = .fault (.trap .el3 0x18 s.pc (encode i)) ↔ verdictOf i s = .trapEl3 :=
  ⟨fun h => by simpa using exec_fault i s _ h, exec_of_trapEl3 i s⟩

end

end Sys2Proof.Proofs
end

section
/-! SUPPORT. What the chains decide, level by level: in the arms that test `SCR_EL3.TCR2En`, and in the others (60_exceptions.md
R131, R132, R134, R136). -/

namespace Sys2Proof.Proofs

open Sys2Proof.Machine Sys2Proof.Safety

/-! ### The arms that test `SCR_EL3.TCR2En` -/

/-- A control of EL2 is three rows of the shared chain, each the trap to EL2 (40 R103 rows 4 to 6). -/
theorem el2Control_ite_eq_rows {α : Type} (i : Instr) (s : State) [Decidable (El2Control i s)] (x y : α) :
    (if El2Control i s then x else y) =
      if s.inputs.el2Enabled && vmTrapBit i s then x
      else if s.inputs.el2Enabled && fineTrapTest i s then x
      else if s.inputs.el2Enabled && (!s.inputs.isHCRXEL2Enabled || !s.inputs.hcrxTCR2En) then x
      else y := by
  by_cases h : El2Control i s
  · rw [if_pos h]
    obtain ⟨he, hv | hf | hx | ht⟩ := h
    all_goals simp [*]
  · rw [if_neg h]
    cases he : s.inputs.el2Enabled with
    | false => simp
    | true => simp_all [El2Control]

/-- The three tests of `SCR_EL3.TCR2En` at EL2, in the terms of R131 and R132. -/
theorem el3Gate_eq_ite (s : State) [Decidable (ScrDisabled s)] (v : Verdict) :
    el3Gate s v =
      if ScrDisabled s ∧ s.inputs.el3SDDUndefPriority = true then .undefined
      else if ScrDisabled s then if s.inputs.el3SDDUndef = true then .undefined else .trapEl3
      else v := by
  by_cases h : ScrDisabled s
  · obtain ⟨h3, hscr⟩ := h
    simp [el3Gate, ScrDisabled, h3, hscr]
  · simp [el3Gate_of_not_scrDisabled s v h, h]

section
variable (i : Instr) (s : State) (himp : Implemented s.cfg i)
include himp

/-- In an arm that tests `SCR_EL3.TCR2En` the priorities are those of R136: Undefined at high priority, at EL1 a control of EL2,
and then Undefined or the trap to EL3. -/
theorem verdictOf_of_scrTestedArm [Decidable (ScrDisabled s)] [Decidable (El2ControlFirst i s)] (h : ScrTestedArm i s) :
    ∃ p, verdictOf i s =
      if ScrDisabled s ∧ s.inputs.el3SDDUndefPriority = true then .undefined
      else if i.accessor ≠ .tcr2El12 ∧ El2ControlFirst i s then .trapEl2
      else if ScrDisabled s then if s.inputs.el3SDDUndef = true then .undefined else .trapEl3
      else .go p := by
  classical
  obtain ⟨hp, hvhe, -⟩ := (implemented_iff s.cfg i).mp himp
  have hS0 : tableS0 s = true ↔ ScrDisabled s := by simp [ScrDisabled, tableS0]
  obtain ⟨ha, hl | hl⟩ | ⟨ha, hl, hh⟩ := h
  · refine ⟨if s.inputs.nvx == 0b111#3 then .nvMem else .tcr2El1, ?_⟩
    simp only [El2ControlFirst, hl, ha, ne_eq, not_false_eq_true, true_and, el2Control_ite_eq_rows]
    rw [verdictOf_of_implemented i s himp ha, verdictTcr2_el1_eq_rows s _ _ hp hl]
    simp only [← hS0, nested_test_eq_two_rows, Bool.and_eq_true, apply_ite Verdict.go]
  · refine ⟨if s.inputs.el2IsInHost then .tcr2El2 else .tcr2El1, ?_⟩
    simp [verdictOf_of_implemented i s himp ha, verdictTcr2, hp, hl, el3Gate_eq_ite, El2ControlFirst, apply_ite Verdict.go]
  · refine ⟨.tcr2El1, ?_⟩
    simp [verdictOf_eq_verdictTcr2El12 i s ha, verdictTcr2El12, hp, hvhe ha, hl, hh, el3Gate_eq_ite, ha]

/-! ### The other arms -/

/-- Elsewhere an access is at EL0, is by the name TCR2_EL12 at EL1 or out of host at EL2, or is at EL3; the level, NVx and the
host bit decide it (40 R103 rows 2, 16; 41 R113). -/
theorem verdictOf_of_not_scrTestedArm (h : ¬ ScrTestedArm i s) :
    (s.el = .el0 ∧ verdictOf i s = .undefined) ∨
      (i.accessor = .tcr2El12 ∧ s.el = .el1 ∧ s.inputs.nvx = 0b101#3 ∧ verdictOf i s = .go .nvMem) ∨
      (i.accessor = .tcr2El12 ∧ s.el = .el1 ∧ s.inputs.nvx ≠ 0b101#3 ∧ s.inputs.nvx.getLsbD 0 = true ∧
        verdictOf i s = .trapEl2) ∨
      (i.accessor = .tcr2El12 ∧ s.el = .el1 ∧ s.inputs.nvx.getLsbD 0 = false ∧ verdictOf i s = .undefined) ∨
      (i.accessor = .tcr2El12 ∧ s.el = .el2 ∧ s.inputs.el2IsInHost = false ∧ verdictOf i s = .undefined) ∨
      (i.accessor = .tcr2El12 ∧ s.el = .el3 ∧ s.inputs.el2IsInHost = false ∧ verdictOf i s = .undefined) ∨
      (s.el = .el3 ∧ (i.accessor = .tcr2El12 → s.inputs.el2IsInHost = true) ∧ verdictOf i s = .go .tcr2El1) := by
  obtain ⟨hp, hvhe, -⟩ := (implemented_iff s.cfg i).mp himp
  by_cases ha : i.accessor = .tcr2El12
  · rw [verdictOf_eq_verdictTcr2El12 i s ha]
    cases hl : s.el with
    | el0 => simp [verdictTcr2El12, hvhe ha, hp, hl]
    | el1 =>
      by_cases hn : s.inputs.nvx = 0b101#3
      · simp [verdictTcr2El12, hvhe ha, hp, hl, ha, hn]
      · cases hb : s.inputs.nvx.getLsbD 0 <;>
          simp [verdictTcr2El12, hvhe ha, hp, hl, ha, hn, hb, -BitVec.getLsbD_eq_getElem]
    | el2 =>
      have hh : s.inputs.el2IsInHost = false := by simpa [ScrTestedArm, ha, hl] using h
      simp [verdictTcr2El12, hvhe ha, hp, hl, ha, hh]
    | el3 => cases hh : s.inputs.el2IsInHost <;> simp [verdictTcr2El12, hvhe ha, hp, hl, ha, hh]
  · rw [verdictOf_of_implemented i s himp ha]
    cases hl : s.el with
    | el0 => simp [verdictTcr2, hp, hl]
    | el1 | el2 => simp [ScrTestedArm, ha, hl] at h
    | el3 => simp [verdictTcr2, hp, hl, ha]

end

/-- An arm that tests `SCR_EL3.TCR2En` is at EL1 or EL2, by the name TCR2_EL12 at EL2 in host alone. -/
theorem level_of_scrTestedArm (i : Instr) (s : State) (h : ScrTestedArm i s) :
    (s.el = .el1 ∨ s.el = .el2) ∧ (i.accessor = .tcr2El12 → s.el = .el2 ∧ s.inputs.el2IsInHost = true) := by
  obtain ⟨ha, hl⟩ | ⟨-, hl, hh⟩ := h
  · exact ⟨hl, fun h => absurd h ha⟩
  · exact ⟨.inr hl, fun _ => ⟨hl, hh⟩⟩

/-- The values of NVx that trap an EL1 access by the name TCR2_EL12, as the chain tests them and as R132 lists them. -/
theorem nvx_traps_iff (n : BitVec 3) :
    n = 0b001#3 ∨ n = 0b011#3 ∨ n = 0b111#3 ↔ n ≠ 0b101#3 ∧ n.getLsbD 0 = true := by
  decide +revert

end Sys2Proof.Proofs
end

section
/-! SUPPORT. The obligations about Undefined and the traps: their causes, complete, where the traps go, and the ISS of a trap
(60_exceptions.md R130 to R136, R141, R143). -/

namespace Sys2Proof.Proofs

open Sys2Proof.Machine Sys2Proof.Safety

/-! ### The causes -/

/-- Settles O31. Without its condition the access is Undefined; in an arm that tests `SCR_EL3.TCR2En` the two SDD tests are the
causes, and the level excludes every other; elsewhere they are the level, NVx and the host bit. -/
theorem undefinedCausesAreComplete : Obligations.UndefinedCausesAreComplete := by
  classical
  intro i s
  rw [exec_eq_undefined_iff]
  by_cases himp : Implemented s.cfg i
  · by_cases harm : ScrTestedArm i s
    · obtain ⟨p, hv⟩ := verdictOf_of_scrTestedArm i s himp harm
      obtain ⟨hl, h12⟩ := level_of_scrTestedArm i s harm
      rw [hv]
      split_ifs
      all_goals grind
    · obtain h | h | h | h | h | h | h := verdictOf_of_not_scrTestedArm i s himp harm
      all_goals simp_all
  · simp [himp, verdictOf_of_not_implemented i s himp]

/-- Settles O32. In an arm that tests `SCR_EL3.TCR2En` the cause is a control of EL2 at EL1, elsewhere it is NVx at EL1. -/
theorem el2TrapCausesAreComplete : Obligations.El2TrapCausesAreComplete := by
  classical
  intro i s
  rw [exec_eq_trapEl2_iff, nvx_traps_iff]
  by_cases himp : Implemented s.cfg i
  · by_cases harm : ScrTestedArm i s
    · obtain ⟨p, hv⟩ := verdictOf_of_scrTestedArm i s himp harm
      obtain ⟨hl, h12⟩ := level_of_scrTestedArm i s harm
      rw [hv]
      split_ifs
      all_goals grind [El2ControlFirst]
    · obtain h | h | h | h | h | h | h := verdictOf_of_not_scrTestedArm i s himp harm
      all_goals simp_all
  · simp [himp, verdictOf_of_not_implemented i s himp]

/-- Settles O33. An arm that tests `SCR_EL3.TCR2En` traps where its other tests have passed, and no other arm traps to EL3. -/
theorem el3TrapCausesAreComplete : Obligations.El3TrapCausesAreComplete := by
  classical
  intro i s
  rw [exec_eq_trapEl3_iff]
  by_cases himp : Implemented s.cfg i
  · by_cases harm : ScrTestedArm i s
    · obtain ⟨p, hv⟩ := verdictOf_of_scrTestedArm i s himp harm
      rw [hv]
      split_ifs
      all_goals simp_all
    · obtain h | h | h | h | h | h | h := verdictOf_of_not_scrTestedArm i s himp harm
      all_goals simp [h, harm]
  · simp [himp, verdictOf_of_not_implemented i s himp]

/-- Settles O30: EL0 is among the causes of Undefined, behind no control. -/
theorem el0AccessIsUndefined : Obligations.El0AccessIsUndefined :=
  fun i s hl => (undefinedCausesAreComplete i s).mpr (.inr (.inl hl))

/-! ### Where the traps go -/

/-- Settles O34: a trap is one of the two the chain raises, and their causes say at which levels. -/
theorem trapsAreTakenAbove : Obligations.TrapsAreTakenAbove := by
  intro i s target code pc w h
  obtain ⟨-, hf⟩ | ⟨-, hf⟩ | ⟨-, hf⟩ | hf := exec_fault i s _ h
  · cases hf
  · cases hf
    obtain ⟨-, hl, -⟩ := (el2TrapCausesAreComplete i s).mp h
    exact ⟨rfl, rfl, rfl, .inl hl⟩
  · cases hf
    obtain ⟨-, harm, -⟩ := (el3TrapCausesAreComplete i s).mp h
    obtain ⟨-, hl | hl⟩ | ⟨-, hl, -⟩ := harm
    · exact ⟨rfl, rfl, rfl, .inl hl⟩
    · exact ⟨rfl, rfl, rfl, .inr ⟨hl, rfl⟩⟩
    · exact ⟨rfl, rfl, rfl, .inr ⟨hl, rfl⟩⟩
  · cases hf

/-! ### The syndrome -/

/-- Bits 9 to 5 of 25 bits, set to `t`, are the same bits at 0 with `t` or-ed in at its place. -/
theorem append_eq_or_shiftLeft (x : BitVec 15) (t : BitVec 5) (y : BitVec 4) (z : BitVec 1) :
    x ++ t ++ y ++ z = (x ++ 0#5 ++ y ++ z) ||| (t.setWidth 25 <<< 5) := by
  ext k hk
  simp only [BitVec.getElem_or, BitVec.getElem_append, BitVec.getElem_shiftLeft, BitVec.getElem_setWidth]
  grind

/-- Rt is or-ed into the ISS of the same access with Rt = 0, at bits 9 to 5 (60 R133). -/
theorem trapISS_eq_or (i : Instr) :
    trapISS i = trapISS (makeInstr i.accessor i.direction 0) ||| ((BitVec.ofNat 5 i.reg).setWidth 25 <<< 5) := by
  simp only [trapISS, makeInstr_accessor, makeInstr_direction, makeInstr_reg]
  exact append_eq_or_shiftLeft _ _ _ _

/-- Settles O60: the six ISS values with Rt = 0, by evaluation, and Rt or-ed in. -/
theorem trapSyndromeTable : Obligations.TrapSyndromeTable := by
  intro t
  have hrt : BitVec.ofNat 5 t.toNat = t := by simp
  refine ⟨?_, ?_, ?_, ?_, ?_, ?_⟩
  all_goals
    rw [trapISS_eq_or, Instr.accessor, Instr.direction, Instr.reg, hrt]
    exact congrArg (· ||| t.setWidth 25 <<< 5) (by decide)

end Sys2Proof.Proofs
end

section
/-! SUPPORT. The obligation of 70_reset_and_hazards.md about the two reset classes by bit position (R161). -/

namespace Sys2Proof.Proofs

open Sys2Proof.Machine

/-- A bit of NamedMask is the position of a named field. -/
theorem exists_named_of_namedMask (c : Config) (k : Nat) (h : (namedMask c).getLsbD k = true) :
    ∃ f : Field, f.named c = true ∧ f.pos = k := by
  by_contra hnone
  push Not at hnone
  rw [namedMask_getLsbD_unnamed c k (BitVec.lt_of_getLsbD h) hnone] at h
  cases h

/-- The positions of the class U fields (70 R161). -/
theorem resetClass_eq_u_iff (f : Field) : f.resetClass = .u ↔ f.pos ∈ [21, 20, 18, 17, 16, 15, 14] := by
  cases f <;> decide

/-- The positions of the class Z fields (70 R161). -/
theorem resetClass_eq_z_iff (f : Field) : f.resetClass = .z ↔ f.pos ∈ [11, 10, 5, 4, 3, 2, 1, 0] := by
  cases f <;> decide

/-- A named field that no rule holds at 0 takes either value: the draw of all bits `b` gives it `b`. -/
theorem exists_draw_of_named (c : Config) (f : Field) (hn : f.named c = true)
    (hfree : ¬ (f.resetClass = .z ∧ c.haveEL2 = false ∧ c.haveEL3 = false)) (b : Bool) :
    ∃ u, (warmResetValue c u).getLsbD f.pos = b := by
  refine ⟨BitVec.fill 64 b, ?_⟩
  rw [warmResetValue_getLsbD_named c _ f hn, if_neg hfree, BitVec.getLsbD_fill, decide_eq_true f.pos_lt, Bool.and_true]

/-- Settles O11: a bit of NamedMask is a named field, its position tells its class, and only class Z with EL1 the highest level
holds it at 0. -/
theorem resetClassesByPosition : Obligations.ResetClassesByPosition := by
  intro c k hk
  obtain ⟨f, hn, rfl⟩ := exists_named_of_namedMask c k hk
  rw [← resetClass_eq_u_iff, ← resetClass_eq_z_iff, ne_eq, highestEL_eq_el1]
  refine ⟨fun hu => exists_draw_of_named c f hn fun ⟨hz, _⟩ => ?_, fun hz => ⟨fun ⟨h2, h3⟩ u => ?_, fun hh => ?_⟩⟩
  · rw [hu] at hz
    cases hz
  · exact warmResetValue_classZ c u f h2 h3 hz hn
  · exact exists_draw_of_named c f hn fun ⟨_, hel⟩ => hh hel

end Sys2Proof.Proofs
end
